-- ==== Sys2Proof/Word.lean ====
section
/-! DEFINITION. The word types of RC5E: bytes, command words, the container of a table word, and the three word
sizes of the cipher (00_scope.md R4, R6). -/

namespace Sys2Proof

/-- 00_scope.md R6: a byte is 8 bits, unsigned. -/
abbrev Byte := BitVec 8

/-- 30_encoding.md R70: every command is one 32-bit word. -/
abbrev CmdWord := BitVec 32

/-- The container of one element of L or S, or of the accumulators A and B: a `w`-bit word (w at most 64) with zero
above bit `w-1`. DESIGN CHOICE, log entry 1: the spec's words have exactly `w` bits (90_conflicts.md C9). Safe. -/
abbrev Word := BitVec 64

/-- 00_scope.md R4: the legal values of the word size `w`. "Any other value is a configuration error". -/
inductive WordSize where
  | w16
  | w32
  | w64
  deriving DecidableEq, Repr

namespace WordSize

/-- R4: `w`, the word size in bits. -/
def bits : WordSize → Nat
  | w16 => 16
  | w32 => 32
  | w64 => 64

/-- R4: `u = w/8`, bytes in a word. -/
def bytes (ws : WordSize) : Nat := ws.bits / 8

/-- R4: `bb = 2*w/8`, bytes in a block. -/
def blockBytes (ws : WordSize) : Nat := 2 * ws.bits / 8

end WordSize

end Sys2Proof
end

