-- ==== Sys2Proof/Syntax.lean ====
section
/-! DEFINITION. The twelve commands of RC5E/1 (30_encoding.md R75), one constructor per row of spec/opcode_table.json. -/

namespace Sys2Proof

/-- 30_encoding.md R74: the DIR operand of SBEGIN, 0 encode, 1 decode. -/
inductive Direction where
  | enc
  | dec
  deriving DecidableEq, Repr

/-- 30_encoding.md R75: the commands with their operands (R76: unsigned fields taken as they stand). -/
inductive Instr where
  /-- format Z, opcode 0x00 -/
  | nop
  /-- format C, opcode 0x01: WBITS = cmd[7:0], ROUNDS = cmd[15:8] -/
  | setcfg (wbits rounds : BitVec 8)
  /-- format Z, opcode 0x02 -/
  | keyclr
  /-- format B, opcode 0x03: IMM8 = cmd[7:0] -/
  | keypush (imm8 : Byte)
  /-- format Z, opcode 0x04 -/
  | expand
  /-- format B, opcode 0x05: IMM8 = cmd[7:0] -/
  | din (imm8 : Byte)
  /-- format Z, opcode 0x06 -/
  | encb
  /-- format Z, opcode 0x07 -/
  | decb
  /-- format M, opcode 0x08: DIR = cmd[0] -/
  | sbegin (dir : Direction)
  /-- format Z, opcode 0x09 -/
  | send
  /-- format Z, opcode 0x0A -/
  | abort
  /-- format Z, opcode 0x0B -/
  | srst
  deriving DecidableEq, Repr

end Sys2Proof
end

