-- ==== Sys2Proof/WellFormed.lean ====
section
/-! DEFINITION. Which command words are well formed (30_encoding.md R75, R77), from the opcode map's masks alone,
independently of the decoder. Every term of `Instr` is well formed by its type: each operand has exactly the bits its
field has (30_encoding.md R72 to R74), so the checks stand on words. -/

namespace Sys2Proof

/-- One row of the opcode map, 30_encoding.md R75. -/
structure OpcodeRow where
  mnemonic : String
  pattern  : CmdWord
  mask     : CmdWord
  deriving DecidableEq, Repr

/-- R75: "a word `cmd` is that command, well formed, exactly when `(cmd AND mask) = match`". -/
def OpcodeRow.admits (row : OpcodeRow) (cmd : CmdWord) : Bool :=
  cmd &&& row.mask == row.pattern

/-- R75: the opcode map. -/
def opcodeMap : List OpcodeRow :=
  [ ⟨"NOP",     0x00000000#32, 0xFFFFFFFF#32⟩,
    ⟨"SETCFG",  0x01000000#32, 0xFFFF0000#32⟩,
    ⟨"KEYCLR",  0x02000000#32, 0xFFFFFFFF#32⟩,
    ⟨"KEYPUSH", 0x03000000#32, 0xFFFFFF00#32⟩,
    ⟨"EXPAND",  0x04000000#32, 0xFFFFFFFF#32⟩,
    ⟨"DIN",     0x05000000#32, 0xFFFFFF00#32⟩,
    ⟨"ENCB",    0x06000000#32, 0xFFFFFFFF#32⟩,
    ⟨"DECB",    0x07000000#32, 0xFFFFFFFF#32⟩,
    ⟨"SBEGIN",  0x08000000#32, 0xFFFFFFFE#32⟩,
    ⟨"SEND",    0x09000000#32, 0xFFFFFFFF#32⟩,
    ⟨"ABORT",   0x0A000000#32, 0xFFFFFFFF#32⟩,
    ⟨"SRST",    0x0B000000#32, 0xFFFFFFFF#32⟩ ]

/-- R77: a command word is well formed when it matches a row of R75. Every other word is illegal. -/
def wordWellFormed (cmd : CmdWord) : Bool :=
  opcodeMap.any fun row => row.admits cmd

/-- The mnemonic of an instruction's row of the opcode map. -/
def Instr.mnemonic : Instr → String
  | .nop       => "NOP"
  | .setcfg .. => "SETCFG"
  | .keyclr    => "KEYCLR"
  | .keypush _ => "KEYPUSH"
  | .expand    => "EXPAND"
  | .din _     => "DIN"
  | .encb      => "ENCB"
  | .decb      => "DECB"
  | .sbegin _  => "SBEGIN"
  | .send      => "SEND"
  | .abort     => "ABORT"
  | .srst      => "SRST"

end Sys2Proof
end

