-- ==== Sys2Proof/Decode.lean ====
section
/-! DEFINITION. Decoding a command word (30_encoding.md R70 to R79), total, rejecting by name, and the encoder written from
the same formats. -/

namespace Sys2Proof

/-- 30_encoding.md R77: the two ways a word is illegal. Both raise IllegalCommand when executed. -/
inductive Illegal where
  /-- opcode 0x0C to 0xFF (R79: reserved for later versions, never a no-op) -/
  | unassignedOpcode
  /-- opcode 0x00 to 0x0B with a bit set that its format reserves -/
  | reservedBits
  deriving DecidableEq, Repr

/-! ### Fields, R70 and R76 -/

/-- R70: OPC = cmd[31:24]. -/
def opcField (cmd : CmdWord) : BitVec 8 := cmd.extractLsb' 24 8

/-- R76: IMM8 = cmd[7:0]; also WBITS. -/
def lowByte (cmd : CmdWord) : BitVec 8 := cmd.extractLsb' 0 8

/-- R76: ROUNDS = cmd[15:8]. -/
def roundsField (cmd : CmdWord) : BitVec 8 := cmd.extractLsb' 8 8

/-- R76: DIR = cmd[0]. -/
def dirField (cmd : CmdWord) : Direction := if cmd.extractLsb' 0 1 = 0#1 then .enc else .dec

/-! ### Formats: the reserved bits of each must be 0 -/

/-- R71, format Z: bits 23:0 reserved. -/
def formatZ (cmd : CmdWord) (i : Instr) : Except Illegal Instr :=
  if cmd.extractLsb' 0 24 = 0#24 then .ok i else .error .reservedBits

/-- R72, format B: bits 23:8 reserved. -/
def formatB (cmd : CmdWord) (f : Byte → Instr) : Except Illegal Instr :=
  if cmd.extractLsb' 8 16 = 0#16 then .ok (f (lowByte cmd)) else .error .reservedBits

/-- R73, format C: bits 23:16 reserved. -/
def formatC (cmd : CmdWord) : Except Illegal Instr :=
  if cmd.extractLsb' 16 8 = 0#8 then .ok (.setcfg (lowByte cmd) (roundsField cmd)) else .error .reservedBits

/-- R74, format M: bits 23:1 reserved. -/
def formatM (cmd : CmdWord) : Except Illegal Instr :=
  if cmd.extractLsb' 1 23 = 0#23 then .ok (.sbegin (dirField cmd)) else .error .reservedBits

/-- R78: the decode function, total on 32-bit words. -/
def decode (cmd : CmdWord) : Except Illegal Instr :=
  let opc := opcField cmd
  if opc = 0x00#8 then formatZ cmd .nop
  else if opc = 0x01#8 then formatC cmd
  else if opc = 0x02#8 then formatZ cmd .keyclr
  else if opc = 0x03#8 then formatB cmd .keypush
  else if opc = 0x04#8 then formatZ cmd .expand
  else if opc = 0x05#8 then formatB cmd .din
  else if opc = 0x06#8 then formatZ cmd .encb
  else if opc = 0x07#8 then formatZ cmd .decb
  else if opc = 0x08#8 then formatM cmd
  else if opc = 0x09#8 then formatZ cmd .send
  else if opc = 0x0A#8 then formatZ cmd .abort
  else if opc = 0x0B#8 then formatZ cmd .srst
  else .error .unassignedOpcode

/-! ### The encoder -/

/-- R71: a Z-format word. -/
def wordZ (opc : BitVec 8) : CmdWord := opc ++ 0#24

/-- R72: a B-format word. -/
def wordB (opc : BitVec 8) (imm8 : Byte) : CmdWord := (opc ++ 0#16) ++ imm8

/-- R73: a C-format word. -/
def wordC (opc rounds wbits : BitVec 8) : CmdWord := ((opc ++ 0#8) ++ rounds) ++ wbits

/-- R74: an M-format word. -/
def wordM (opc : BitVec 8) (dir : BitVec 1) : CmdWord := (opc ++ 0#23) ++ dir

/-- R74: the DIR bit of a direction. -/
def dirBit : Direction → BitVec 1
  | .enc => 0#1
  | .dec => 1#1

/-- R75: the command word of an instruction. -/
def encode : Instr → CmdWord
  | .nop                 => wordZ 0x00#8
  | .setcfg wbits rounds => wordC 0x01#8 rounds wbits
  | .keyclr              => wordZ 0x02#8
  | .keypush imm8        => wordB 0x03#8 imm8
  | .expand              => wordZ 0x04#8
  | .din imm8            => wordB 0x05#8 imm8
  | .encb                => wordZ 0x06#8
  | .decb                => wordZ 0x07#8
  | .sbegin dir          => wordM 0x08#8 (dirBit dir)
  | .send                => wordZ 0x09#8
  | .abort               => wordZ 0x0A#8
  | .srst                => wordZ 0x0B#8

/-- The 32-bit command word of a table word: bit 0 of `w` is bit 0 of the word (R70), the bits from `nbits` up are 0. -/
def tableCmdWord (nbits w : Nat) : CmdWord := BitVec.ofNat 32 (w % 2 ^ nbits)

/-- What the decoder reads from a word of spec/opcode_table.json. A command is one 32-bit word presented whole, with no
byte order (R70), so the table's numbering of bits is the command word's own. -/
def decodeTableWord (nbits w : Nat) : Option Instr :=
  match decode (tableCmdWord nbits w) with
  | .ok i => some i
  | .error _ => none

end Sys2Proof
end

