-- ==== Sys2Proof/Config.lean ====
section
/-! DEFINITION. What is fixed for the machine: the sizes of the five arrays (00_scope.md R4, 20_memory.md R50) and the one
free value of the model. "No parameter is left open for the model to take as an argument" (R4), so there is nothing
else to configure. -/

namespace Sys2Proof.Config

/-- R50: K has indices 0..254. -/
def keyCells : Nat := 255

/-- R50: L has at most 128 words. -/
def keyWordCells : Nat := 128

/-- R50: S has at most 512 words. -/
def tableCells : Nat := 512

/-- R50: BUF has indices 0..15. -/
def bufCells : Nat := 16

/-- R50: HOLD has indices 0..15. -/
def holdCells : Nat := 16

/-- The free values: what a scratch register holds after a reset that the running engine takes is "unspecified: a model
must not assume they are zero and must not assume they keep their old values" (70_reset_and_hazards.md R201).
No body, so that no proof can see a value of it (log entry 4). Safe. -/
opaque freeValue : Nat → BitVec 64

end Sys2Proof.Config
end

