-- ==== Sys2Proof/Machine/State.lean ====
section
/-! DEFINITION. The state of RC5E as plain data (10_state.md R20), with the observations the host makes and the list of
what the host will do, and the state after reset (R42). -/

namespace Sys2Proof.Machine

open Sys2Proof

/-! ### The internal arrays, 20_memory.md R50

An array is a list of (index, element) pairs with strictly rising indices. An index with no pair has not been written
since reset and has no value: "a model should represent 'unspecified' array contents as unwritten cells whose read is a
model fault" (10_state.md R42, log entry 2). So there is no entry equal to what an unlisted index reads as. -/

/-- One internal array. For bytes this is a list of `Host.Cell`. -/
abbrev Memory (α : Type) := List (Nat × α)

/-- The canonical form of an array: every index lies below the index of each later pair. -/
def Memory.wf {α : Type} : Memory α → Bool
  | [] => true
  | [_] => true
  | (a, _) :: (b, y) :: m => decide (a < b) && Memory.wf ((b, y) :: m)

/-! ### Registers that hold one of a few names -/

/-- 10_state.md R29: the framer mode. The value 3 is never stored, and this type cannot hold it (log entry 13). -/
inductive Mode where
  | idle
  | senc
  | sdec
  deriving DecidableEq, Repr

/-- 60_exceptions.md R175: the fault code in ERR. The values 5..255 are never stored, and this type cannot hold them
(log entry 13). -/
inductive ErrCode where
  | noFault
  | configurationError
  | inputShapeError
  | sequenceError
  | illegalCommand
  deriving DecidableEq, Repr

/-- 70_reset_and_hazards.md R211: what the host may do to the engine, one action between two others. -/
inductive HostAction where
  /-- present any 32-bit word at the command port -/
  | command (cmd : CmdWord)
  /-- read the CSR of a 2-bit index (44_system.md R168) -/
  | csrRead (n : BitVec 2)
  /-- assert the reset input (R200) -/
  | assertReset
  deriving DecidableEq, Repr

/-! ### The state -/

/-- 10_state.md R20: the complete architectural state, under the spec's own names (W to k), then what the host observed
(OUT, CSROUT), what it will do (`pending`), and the model's counter of free values. -/
structure State where
  /-- word size in bits: 0 unconfigured, 16, 32 or 64 (R21) -/
  W : BitVec 8
  /-- rounds (R22) -/
  R : BitVec 8
  /-- secret key bytes (R23) -/
  K : Memory Byte
  /-- key length in bytes (R23) -/
  KLEN : BitVec 8
  /-- key words (R24) -/
  L : Memory Word
  /-- the ExpandedKeyTable (R25) -/
  S : Memory Word
  /-- S was built from the current W, R, K (R26) -/
  TVALID : Bool
  /-- the block being assembled (R27) -/
  BUF : Memory Byte
  /-- valid bytes in BUF (R27) -/
  BCNT : BitVec 5
  /-- the held-back block of a decode stream (R28) -/
  HOLD : Memory Byte
  /-- HOLD holds a block not yet emitted (R28) -/
  HVALID : Bool
  /-- framer mode (R29) -/
  MODE : Mode
  /-- the encode stream has emitted a block (R30) -/
  SANY : Bool
  /-- fault code (R31) -/
  ERR : ErrCode
  /-- the command word that faulted (R31) -/
  ERRCMD : CmdWord
  /-- scratch accumulator (R32) -/
  A : Word
  /-- scratch accumulator (R32) -/
  B : Word
  /-- scratch cursor into S (R32) -/
  i : BitVec 9
  /-- scratch cursor into L (R32) -/
  j : BitVec 7
  /-- scratch loop counter (R32) -/
  k : BitVec 11
  /-- the output trace: every byte emitted, in order (R41; an observation, log entry 7) -/
  OUT : List Byte
  /-- every CSR read made, with the value returned, in order (R35; an observation, log entry 7) -/
  CSROUT : List (BitVec 2 × BitVec 32)
  /-- what the host will do, next action first (R33, R43; the environment, log entry 6) -/
  pending : List HostAction
  /-- how many free values have been used (the model's own, log entry 4) -/
  freeCount : Nat
  deriving DecidableEq, Repr

/-- 10_state.md R42: the state after reset. The arrays have no written cell (log entry 2). The scratch registers, whose
reset contents the spec leaves unspecified, are 0 here: DESIGN CHOICE, log entry 3, unsafe. Nothing has been observed
and the host has presented nothing (log entries 6, 7). -/
def State.reset : State where
  W := 0#8
  R := 0#8
  K := []
  KLEN := 0#8
  L := []
  S := []
  TVALID := false
  BUF := []
  BCNT := 0#5
  HOLD := []
  HVALID := false
  MODE := .idle
  SANY := false
  ERR := .noFault
  ERRCMD := 0#32
  A := 0#64
  B := 0#64
  i := 0#9
  j := 0#7
  k := 0#11
  OUT := []
  CSROUT := []
  pending := []
  freeCount := 0

/-! ### The two ways a step can stop

The engine's own faults (60_exceptions.md R175) are no stops: they are latched in ERR and the machine goes on. No state
that meets the invariant of 10_state.md R40 reaches a stop. -/

/-- Why the model stops. Each is safe: it can only make a true claim unprovable. -/
inductive Fault where
  /-- A rule read an array element not written since reset. Raised by the array reads of EXPAND, ENCB, DECB, DIN and SEND.
  10_state.md R42: a "read is a model fault". Safe (log entry 2). -/
  | unwrittenCell
  /-- A rule needed u or bb while W is not 16, 32 or 64. Raised by ENCB, DECB and SEND, whose rules do not check CFGV.
  10_state.md R21: "u, bb, t and c are undefined and no rule that uses them can be reached". Safe (log entry 12). -/
  | undefinedParameters
  /-- A byte was to be stored at BUF[16] or above. Raised by DIN. 20_memory.md R50: BUF has indices 0..15.
  Safe (log entry 12). -/
  | noSuchCell
  deriving DecidableEq, Repr

/-- Why the model has no meaning for an instruction. -/
inductive Refusal where
  /-- The instruction has no meaning yet. Raised by an arm of `exec` alone. Safe. -/
  | notModelled (mnemonic : String)
  deriving DecidableEq, Repr

end Sys2Proof.Machine
end

