-- ==== Sys2Proof/Machine/Operands.lean ====
section
/-! DEFINITION. Operand forms and the quantities derived from W, R and KLEN (00_scope.md R4, 10_state.md R21, R22). -/

namespace Sys2Proof.Machine

open Sys2Proof

/-- 10_state.md R21: the word size that an 8-bit number names, if it is one of 16, 32, 64. Used for the operand WBITS
(30_encoding.md R73) and for the register W. -/
def wordSize? (wbits : BitVec 8) : Option WordSize :=
  if wbits = 16#8 then some .w16
  else if wbits = 32#8 then some .w32
  else if wbits = 64#8 then some .w64
  else none

/-- 30_encoding.md R74: the framer mode that SBEGIN's DIR selects. -/
def Mode.ofDirection : Direction → Mode
  | .enc => .senc
  | .dec => .sdec

/-- 00_scope.md R4: `t = 2*(r+1)`, words in the expanded key table. -/
def tableWords (rounds : Nat) : Nat := 2 * (rounds + 1)

/-- 00_scope.md R4: `c = max(1, ceil(b/u))`, key words of a key of `b` bytes (90_conflicts.md C3 for the `max(1, ...)`). -/
def keyWords (ws : WordSize) (keyBytes : Nat) : Nat := max 1 ((keyBytes + ws.bytes - 1) / ws.bytes)

/-- 00_scope.md R4: `n_mix = 3*max(c, t)`, key mixing iterations. -/
def mixIterations (c t : Nat) : Nat := 3 * max c t

end Sys2Proof.Machine
end

