-- ==== Sys2Proof/Machine/Flags.lean ====
section
/-! DEFINITION. Status: the codes of MODE and ERR, the derived flag CFGV, the four CSRs and the line err_o
(10_state.md R21, R34 to R38; 60_exceptions.md R175, R186). The engine has no arithmetic flags (R34). -/

namespace Sys2Proof.Machine

open Sys2Proof

/-- 10_state.md R29: the number of a mode. -/
def Mode.code : Mode → BitVec 2
  | .idle => 0#2
  | .senc => 1#2
  | .sdec => 2#2

/-- 60_exceptions.md R175: the number of a fault code. -/
def ErrCode.code : ErrCode → BitVec 8
  | .noFault            => 0#8
  | .configurationError => 1#8
  | .inputShapeError    => 2#8
  | .sequenceError      => 3#8
  | .illegalCommand     => 4#8

/-- 10_state.md R21: CFGV is `W in {16, 32, 64}`, a function of W and no flag of its own. -/
def State.cfgv (s : State) : Bool := (wordSize? s.W).isSome

/-- 10_state.md R36: CSR 0, its fields from bit 31 down: reserved, ERR, reserved, BCNT, reserved, SANY, HVALID, TVALID,
CFGV, MODE. Reserved bits read as 0. -/
def State.status (s : State) : BitVec 32 :=
  0#8 ++ (s.ERR.code ++ (0#3 ++ (s.BCNT ++ (0#2 ++ (BitVec.ofBool s.SANY ++ (BitVec.ofBool s.HVALID ++
    (BitVec.ofBool s.TVALID ++ (BitVec.ofBool s.cfgv ++ s.MODE.code))))))))

/-- 10_state.md R37: CSR 1, `W` in bits 7:0, `R` in bits 15:8, zero above. -/
def State.cfgCsr (s : State) : BitVec 32 := 0#16 ++ (s.R ++ s.W)

/-- 10_state.md R37: CSR 2, KLEN in bits 7:0, zero above. -/
def State.klenCsr (s : State) : BitVec 32 := 0#24 ++ s.KLEN

/-- 44_system.md R168: CsrRead(n). A function of the state: a read changes nothing. -/
def State.csrRead (s : State) (n : BitVec 2) : BitVec 32 :=
  if n = 0#2 then s.status
  else if n = 1#2 then s.cfgCsr
  else if n = 2#2 then s.klenCsr
  else s.ERRCMD

/-- 60_exceptions.md R186: the output line err_o "is 1 exactly while ERR is not 0". -/
def State.errO (s : State) : Bool := decide (s.ERR ≠ .noFault)

end Sys2Proof.Machine
end

