-- ==== Sys2Proof/Machine/Primitives.lean ====
section
/-! DEFINITION. The word primitives of the datapath (40_word_primitives.md R90 to R94), the key-schedule constants (R98),
and the little-endian conversions between bytes and words (20_memory.md R51 to R53). One routine for all word sizes. -/

namespace Sys2Proof.Machine

open Sys2Proof

/-- R90: `(x + y) mod 2^w`. -/
def addw {w : Nat} (x y : BitVec w) : BitVec w := x + y

/-- R91: `(x - y) mod 2^w`. -/
def subw {w : Nat} (x y : BitVec w) : BitVec w := x - y

/-- R92: bitwise exclusive-or. -/
def xorw {w : Nat} (x y : BitVec w) : BitVec w := x ^^^ y

/-- R93: rotate left by `s mod w`. `x <<< k` is `(x * 2^k) mod 2^w`, `x >>> (w-k)` is `x div 2^(w-k)`. -/
def rotl {w : Nat} (x : BitVec w) (s : Nat) : BitVec w :=
  let k := s % w
  if k = 0 then x else (x <<< k) + (x >>> (w - k))

/-- R94: rotate right by `s mod w`. -/
def rotr {w : Nat} (x : BitVec w) (s : Nat) : BitVec w :=
  let k := s % w
  if k = 0 then x else (x >>> k) + (x <<< (w - k))

/-- R98: P_w. The spec takes the digits from general knowledge: log entry 10. -/
def constP : (ws : WordSize) → BitVec ws.bits
  | .w16 => (0xB7E1 : BitVec 16)
  | .w32 => (0xB7E15163 : BitVec 32)
  | .w64 => (0xB7E151628AED2A6B : BitVec 64)

/-- R98: Q_w. The spec takes the digits from general knowledge: log entry 10. -/
def constQ : (ws : WordSize) → BitVec ws.bits
  | .w16 => (0x9E37 : BitVec 16)
  | .w32 => (0x9E3779B9 : BitVec 32)
  | .w64 => (0x9E3779B97F4A7C15 : BitVec 64)

/-- 20_memory.md R54: the number whose little-endian bytes are given, the sum of `X[q] * 2^(8*q)`. -/
def leNat : List Byte → Nat
  | [] => 0
  | x :: xs => x.toNat + 256 * leNat xs

/-- 00_scope.md R6: `X[a..a+n-1]`. -/
def slice {α : Type} (X : List α) (a n : Nat) : List α := (X.drop a).take n

/-- 20_memory.md R52: LEWord(X, a, u), the first byte of the group least significant. -/
def leWord (w : Nat) (X : List Byte) (a u : Nat) : BitVec w := BitVec.ofNat w (leNat (slice X a u))

/-- 20_memory.md R52: WordLE(v, u), byte `q` is `(v >> (8*q)) mod 256`. -/
def wordLE {w : Nat} (v : BitVec w) (u : Nat) : List Byte :=
  (List.range u).map fun q => BitVec.ofNat 8 (v.toNat / 2 ^ (8 * q))

/-- 20_memory.md R53: the two words of a block of bytes, A low half, B high half. -/
def blockWords (ws : WordSize) (X : List Byte) : BitVec ws.bits × BitVec ws.bits :=
  (leWord ws.bits X 0 ws.bytes, leWord ws.bits X ws.bytes ws.bytes)

/-- 20_memory.md R53: the bytes of a pair of words, A then B. -/
def blockBytesOf (ws : WordSize) (b : BitVec ws.bits × BitVec ws.bits) : List Byte :=
  wordLE b.1 ws.bytes ++ wordLE b.2 ws.bytes

end Sys2Proof.Machine
end

