-- ==== Sys2Proof/Machine/KeyExpander.lean ====
section
/-! DEFINITION. The KeyExpander: Align, Seed, Mix, Expand (41_config_key.md R114 to R117), as functions of the key bytes,
the word size and the round count. -/

namespace Sys2Proof.Machine

open Sys2Proof

/-- R114: keybyte(m), zero beyond the end of the key. -/
def keyByte (key : List Byte) (m : Nat) : Byte := key.getD m 0#8

/-- R114: the bytes of key word `q`. -/
def keyGroup (ws : WordSize) (key : List Byte) (q : Nat) : List Byte :=
  (List.range ws.bytes).map fun n => keyByte key (q * ws.bytes + n)

/-- R114: Align, the key as `c` little-endian words. -/
def align (ws : WordSize) (key : List Byte) : List (BitVec ws.bits) :=
  (List.range (keyWords ws key.length)).map fun q => leWord ws.bits (keyGroup ws key q) 0 ws.bytes

/-- R115: `n` words that begin with `x`, each the one before it plus `step`. -/
def seedFrom {w : Nat} (step : BitVec w) : Nat → BitVec w → List (BitVec w)
  | 0, _ => []
  | n + 1, x => x :: seedFrom step n (addw x step)

/-- R115: Seed, the table before mixing: `S[0] = P_w`, `S[q] = ADDW(S[q-1], Q_w)`. -/
def seed (ws : WordSize) (rounds : Nat) : List (BitVec ws.bits) :=
  seedFrom (constQ ws) (tableWords rounds) (constP ws)

/-- R116: what Mix works on, with the scratch registers of 10_state.md R32. -/
structure MixState (w : Nat) where
  L : List (BitVec w)
  S : List (BitVec w)
  A : BitVec w
  B : BitVec w
  i : Nat
  j : Nat
  deriving DecidableEq, Repr

/-- R116: one iteration. The second assignment uses the new A and, in both places, the old B; sums are reduced before
they are rotated. -/
def mixStep {w : Nat} (c t : Nat) (m : MixState w) : MixState w :=
  let a := rotl (addw (addw (m.S.getD m.i 0) m.A) m.B) 3
  let b := rotl (addw (addw (m.L.getD m.j 0) a) m.B) (addw a m.B).toNat
  { L := m.L.set m.j b
    S := m.S.set m.i a
    A := a
    B := b
    i := (m.i + 1) % t
    j := (m.j + 1) % c }

/-- R116: `n` iterations. -/
def mixIterate {w : Nat} (c t : Nat) : Nat → MixState w → MixState w
  | 0, m => m
  | n + 1, m => mixIterate c t n (mixStep c t m)

/-- R116: Mix, from accumulators and cursors at 0. -/
def mix {w : Nat} (c t : Nat) (L S : List (BitVec w)) : MixState w :=
  mixIterate c t (mixIterations c t) { L := L, S := S, A := 0, B := 0, i := 0, j := 0 }

/-- R117: Expand(key, w, r), whole: Align, then Seed, then Mix. The fields L and S of the result are the pair the rule
returns. -/
def expand (ws : WordSize) (rounds : Nat) (key : List Byte) : MixState ws.bits :=
  mix (keyWords ws key.length) (tableWords rounds) (align ws key) (seed ws rounds)

end Sys2Proof.Machine
end

