-- ==== Sys2Proof/Machine/BlockCipher.lean ====
section
/-! DEFINITION. The BlockCipher: EncBlock and DecBlock (42_block.md R132, R133), round by round (R137), for any table. -/

namespace Sys2Proof.Machine

open Sys2Proof

/-- 42_block.md R137: the pair (A, B) that a round works on. -/
abbrev WordPair (w : Nat) := BitVec w × BitVec w

/-- The word of a table at an index. Every index the rules use is below `t = 2*(r+1)`, the table's length. -/
def tableWord {w : Nat} (T : List (BitVec w)) (q : Nat) : BitVec w := T.getD q 0

/-- R132: round `k` of encryption. The second line uses the A just computed. -/
def encRound {w : Nat} (T : List (BitVec w)) (k : Nat) (p : WordPair w) : WordPair w :=
  let a := addw (rotl (xorw p.1 p.2) p.2.toNat) (tableWord T (2 * k))
  let b := addw (rotl (xorw a p.2) a.toNat) (tableWord T (2 * k + 1))
  (a, b)

/-- R132, R137: the state of encryption at `k`: the initial additions, then rounds 1 to `k`. -/
def encRounds {w : Nat} (T : List (BitVec w)) : Nat → WordPair w → WordPair w
  | 0, p => (addw p.1 (tableWord T 0), addw p.2 (tableWord T 1))
  | k + 1, p => encRound T (k + 1) (encRounds T k p)

/-- R133: round `k` of decryption. The second line uses the B just computed. -/
def decRound {w : Nat} (T : List (BitVec w)) (k : Nat) (p : WordPair w) : WordPair w :=
  let b := xorw (rotr (subw p.2 (tableWord T (2 * k + 1))) p.1.toNat) p.1
  let a := xorw (rotr (subw p.1 (tableWord T (2 * k))) b.toNat) b
  (a, b)

/-- R133, R137: rounds `k` down to 1, then the final subtractions. -/
def decRounds {w : Nat} (T : List (BitVec w)) : Nat → WordPair w → WordPair w
  | 0, p => (subw p.1 (tableWord T 0), subw p.2 (tableWord T 1))
  | k + 1, p => decRounds T k (decRound T (k + 1) p)

/-- R132: EncBlock(X, S, w, r). -/
def encBlock (ws : WordSize) (T : List (BitVec ws.bits)) (rounds : Nat) (X : List Byte) : List Byte :=
  blockBytesOf ws (encRounds T rounds (blockWords ws X))

/-- R133: DecBlock(X, S, w, r). -/
def decBlock (ws : WordSize) (T : List (BitVec ws.bits)) (rounds : Nat) (X : List Byte) : List Byte :=
  blockBytesOf ws (decRounds T rounds (blockWords ws X))

end Sys2Proof.Machine
end

