-- ==== Sys2Proof/Machine/StreamCodec.lean ====
section
/-! DEFINITION. The StreamCodec's functions on whole byte sequences: StripZeros, Encode, Decode (43_stream.md R151 to R153).
The commands use StripZeros; Encode and Decode say what a whole stream must emit. -/

namespace Sys2Proof.Machine

open Sys2Proof

/-- R151: remove every trailing zero byte. -/
def stripZeros : List Byte → List Byte
  | [] => []
  | x :: xs =>
    match stripZeros xs with
    | [] => if x = 0#8 then [] else [x]
    | y :: ys => x :: y :: ys

/-- R152: `m = max(1, ceil(n/bb))`, the blocks of a plaintext of `n` bytes. -/
def encodeBlocks (ws : WordSize) (n : Nat) : Nat := max 1 ((n + ws.blockBytes - 1) / ws.blockBytes)

/-- R152: the plaintext padded with zero bytes to a whole number of blocks. -/
def padPlain (ws : WordSize) (p : List Byte) : List Byte :=
  p ++ List.replicate (encodeBlocks ws p.length * ws.blockBytes - p.length) 0#8

/-- R152, R153: block `q` of a byte sequence. -/
def blockAt (ws : WordSize) (X : List Byte) (q : Nat) : List Byte := slice X (q * ws.blockBytes) ws.blockBytes

/-- R152: Encode(p, S, w, r). -/
def encodeStream (ws : WordSize) (T : List (BitVec ws.bits)) (rounds : Nat) (p : List Byte) : List Byte :=
  (List.range (encodeBlocks ws p.length)).flatMap fun q => encBlock ws T rounds (blockAt ws (padPlain ws p) q)

/-- R153: the decryptions of the first `m` blocks, unstripped. -/
def decryptBlocks (ws : WordSize) (T : List (BitVec ws.bits)) (rounds : Nat) (ct : List Byte) (m : Nat) : List Byte :=
  (List.range m).flatMap fun q => decBlock ws T rounds (blockAt ws ct q)

/-- R153: Decode(ct, S, w, r), for a ciphertext whose length is a multiple of bb. -/
def decodeStream (ws : WordSize) (T : List (BitVec ws.bits)) (rounds : Nat) (ct : List Byte) : List Byte :=
  match ct.length / ws.blockBytes with
  | 0 => []
  | m + 1 => decryptBlocks ws T rounds ct m ++ stripZeros (decBlock ws T rounds (blockAt ws ct m))

end Sys2Proof.Machine
end

