-- ==== Sys2Proof/Machine/Ops.lean ====
section
/-! DEFINITION. The shared operations over State: array reads and writes (20_memory.md R50, R54), emission (00_scope.md R7),
taking a fault and returning from it (60_exceptions.md R180, R182, R183), reset (70_reset_and_hazards.md R201), and the
datapath's use of BUF, HOLD, K, L and S. -/

namespace Sys2Proof.Machine

open Sys2Proof

/-- What a meaning answers. -/
abbrev Result := Host.Outcome State Fault Refusal

/-! ### Arrays -/

/-- The element at an index, if one has been written since reset. -/
def Memory.read {α : Type} : Memory α → Nat → Option α
  | [], _ => none
  | (b, x) :: m, a => if a = b then some x else Memory.read m a

/-- `array[a] <- v`, keeping the indices in rising order. -/
def Memory.write {α : Type} : Memory α → Nat → α → Memory α
  | [], a, v => [(a, v)]
  | (b, x) :: m, a, v =>
    if a < b then (a, v) :: (b, x) :: m
    else if a = b then (a, v) :: m
    else (b, x) :: Memory.write m a v

/-- `array[a..a+n-1]`, if every element has been written since reset (R54). -/
def Memory.readList {α : Type} (m : Memory α) : Nat → Nat → Option (List α)
  | _, 0 => some []
  | a, n + 1 =>
    match m.read a, Memory.readList m (a + 1) n with
    | some v, some vs => some (v :: vs)
    | _, _ => none

/-- `array[a+q] <- vs[q]` for each element of `vs`, in order. -/
def Memory.writeList {α : Type} : Memory α → Nat → List α → Memory α
  | m, _, [] => m
  | m, a, v :: vs => Memory.writeList (m.write a v) (a + 1) vs

/-- 20_memory.md R54: MemRead(space, a, n), little-endian. -/
def memRead (m : Memory Byte) (a n : Nat) : Option Nat := (m.readList a n).map leNat

/-- 20_memory.md R54: MemWrite(space, a, n, v), little-endian. -/
def memWrite (m : Memory Byte) (a n v : Nat) : Memory Byte :=
  m.writeList a ((List.range n).map fun q => BitVec.ofNat 8 (v / 2 ^ (8 * q)))

/-- A `w`-bit word as it stands in its container: `zext_64` of it (00_scope.md R7). -/
def wordCell {w : Nat} (x : BitVec w) : Word := x.setWidth 64

/-- The `w`-bit word that a container holds. -/
def cellWord (w : Nat) (x : Word) : BitVec w := x.setWidth w

/-! ### Stopping on what the rules leave without a value -/

/-- Go on with a value that a rule needs, or stop by name where there is none. -/
def need {α : Type} (o : Option α) (f : Fault) (go : α → Result) : Result :=
  match o with
  | some x => go x
  | none => .fault f

/-- Go on with the word size that W names. 10_state.md R21: u and bb are undefined when there is none (log entry 12). -/
def withWordSize (s : State) (go : WordSize → Result) : Result :=
  need (wordSize? s.W) .undefinedParameters go

/-! ### Emission -/

/-- 00_scope.md R7: emit(X) appends the bytes of X to the output trace in index order. -/
def State.emit (s : State) (X : List Byte) : State := { s with OUT := s.OUT ++ X }

/-! ### Taking a fault, and returning from it -/

/-- 60_exceptions.md R180: ERR takes the code, ERRCMD the whole command word, and nothing else changes. -/
def State.latchFault (s : State) (f : ErrCode) (cmd : CmdWord) : State := { s with ERR := f, ERRCMD := cmd }

/-- 60_exceptions.md R180: `raise F(cmd)`. There is no vector and no handler: the next state is the latched one. -/
def raise (f : ErrCode) (cmd : CmdWord) (s : State) : Result := .next (s.latchFault f cmd)

/-- 60_exceptions.md R183, 44_system.md R166: the fault latch cleared. -/
def State.clearFault (s : State) : State := { s with ERR := .noFault, ERRCMD := 0#32 }

/-- 44_system.md R166: the framer returned to IDLE with empty buffers. What waits in BUF and HOLD is discarded. -/
def State.clearFramer (s : State) : State := { s with MODE := .idle, BCNT := 0#5, HVALID := false, SANY := false }

/-- 60_exceptions.md R182: common acceptance. While ERR is not 0 a command has no effect at all. -/
def accept (s : State) (rule : Result) : Result :=
  if s.ERR = .noFault then rule else .next s

/-- 60_exceptions.md R179, R182: a word that is not well formed raises IllegalCommand, unless the engine is faulted. -/
def illegalCommand (cmd : CmdWord) (s : State) : Result :=
  accept s (raise .illegalCommand cmd s)

/-! ### Reset -/

/-- 70_reset_and_hazards.md R201, 44_system.md R167: every register takes its reset value, the arrays lose their contents.
OUT is an observation and stays (10_state.md R41); so do the reads the host has made and what it will do. The scratch
registers become unspecified: free values (log entry 4). -/
def State.resetEngine (s : State) : State :=
  { State.reset with
    A := Config.freeValue s.freeCount
    B := Config.freeValue (s.freeCount + 1)
    i := (Config.freeValue (s.freeCount + 2)).setWidth 9
    j := (Config.freeValue (s.freeCount + 3)).setWidth 7
    k := (Config.freeValue (s.freeCount + 4)).setWidth 11
    OUT := s.OUT
    CSROUT := s.CSROUT
    pending := s.pending
    freeCount := s.freeCount + 5 }

/-! ### The key and the table -/

/-- 10_state.md R23: the key, K[0..KLEN-1]. -/
def State.key? (s : State) : Option (List Byte) := s.K.readList 0 s.KLEN.toNat

/-- 10_state.md R25: the table, S[0..t-1], as words of the word size. -/
def State.table? (s : State) (ws : WordSize) : Option (List (BitVec ws.bits)) :=
  (s.S.readList 0 (tableWords s.R.toNat)).map fun T => T.map (cellWord ws.bits)

/-- 41_config_key.md R113: L[0..c-1] and S[0..t-1] written with the result of Expand, TVALID set. The scratch registers
end as Mix leaves them; `k`, which counts the iterations from 1, is left at the last (log entry 5). -/
def State.installTable (s : State) (ws : WordSize) (m : MixState ws.bits) : State :=
  { s with
    L := s.L.writeList 0 (m.L.map wordCell)
    S := s.S.writeList 0 (m.S.map wordCell)
    TVALID := true
    A := wordCell m.A
    B := wordCell m.B
    i := BitVec.ofNat 9 m.i
    j := BitVec.ofNat 7 m.j
    k := BitVec.ofNat 11 (mixIterations m.L.length m.S.length) }

/-! ### The block datapath -/

/-- 42_block.md R130: `BUF[BCNT] <- b`, BCNT post-incremented, if BUF has that index (20_memory.md R50). -/
def State.pushByte? (s : State) (b : Byte) : Option State :=
  if s.BCNT.toNat < Config.bufCells then
    some { s with BUF := s.BUF.write s.BCNT.toNat b, BCNT := s.BCNT + 1#5 }
  else none

/-- 42_block.md R132 on BUF[0..bb-1]: the bytes of EncBlock, and the state with the scratch registers as the rounds leave
them (`k` at the last round, R137, log entry 5). -/
def State.encryptBuf? (s : State) (ws : WordSize) : Option (List Byte × State) :=
  match s.BUF.readList 0 ws.blockBytes, s.table? ws with
  | some X, some T =>
    let p := encRounds T s.R.toNat (blockWords ws X)
    some (encBlock ws T s.R.toNat X, { s with A := wordCell p.1, B := wordCell p.2, k := s.R.setWidth 11 })
  | _, _ => none

/-- 42_block.md R133 on BUF[0..bb-1], likewise. Decryption visits its states from r down to 0 (R137, log entry 5). -/
def State.decryptBuf? (s : State) (ws : WordSize) : Option (List Byte × State) :=
  match s.BUF.readList 0 ws.blockBytes, s.table? ws with
  | some X, some T =>
    let p := decRounds T s.R.toNat (blockWords ws X)
    some (decBlock ws T s.R.toNat X, { s with A := wordCell p.1, B := wordCell p.2, k := 0#11 })
  | _, _ => none

/-- 43_stream.md R147, R149: the held-back block HOLD[0..bb-1], or nothing when HVALID = 0. -/
def State.heldBlock? (s : State) (ws : WordSize) : Option (List Byte) :=
  if s.HVALID = true then s.HOLD.readList 0 ws.blockBytes else some []

/-- 43_stream.md R148: zero bytes written into BUF[BCNT..bb-1]. -/
def State.padBuf (s : State) (ws : WordSize) : State :=
  { s with BUF := s.BUF.writeList s.BCNT.toNat (List.replicate (ws.blockBytes - s.BCNT.toNat) 0#8) }

end Sys2Proof.Machine
end

