-- ==== Sys2Proof/Machine/Block.lean ====
section
/-! DEFINITION. Data input and the raw block commands (42_block.md R130, R131, R134, R135), with DIN's two stream modes
(43_stream.md R146, R147). Checks stand in the order of 60_exceptions.md R185. -/

namespace Sys2Proof.Machine

open Sys2Proof

/-- R131: DIN in IDLE mode. -/
def dinIdle (ws : WordSize) (imm8 : Byte) (s : State) : Result :=
  if s.BCNT.toNat = ws.blockBytes then raise .inputShapeError (encode (.din imm8)) s
  else need (s.pushByte? imm8) .noSuchCell fun s1 => .next s1

/-- 43_stream.md R146: DIN in SENC mode. -/
def dinSenc (ws : WordSize) (imm8 : Byte) (s : State) : Result :=
  need (s.pushByte? imm8) .noSuchCell fun s1 =>
    if s1.BCNT.toNat = ws.blockBytes then
      need (s1.encryptBuf? ws) .unwrittenCell fun r =>
        .next { r.2.emit r.1 with BCNT := 0#5, SANY := true }
    else .next s1

/-- 43_stream.md R147: DIN in SDEC mode. The block held back is released unstripped before the new one replaces it. -/
def dinSdec (ws : WordSize) (imm8 : Byte) (s : State) : Result :=
  need (s.pushByte? imm8) .noSuchCell fun s1 =>
    if s1.BCNT.toNat = ws.blockBytes then
      need (s1.heldBlock? ws) .unwrittenCell fun held =>
        need (s1.decryptBuf? ws) .unwrittenCell fun r =>
          .next { r.2.emit held with HOLD := s1.HOLD.writeList 0 r.1, HVALID := true, BCNT := 0#5 }
    else .next s1

/-- R130: DIN b. -/
def execDin (imm8 : Byte) (s : State) : Result :=
  accept s <|
    match wordSize? s.W with
    | none => raise .sequenceError (encode (.din imm8)) s
    | some ws =>
      match s.MODE with
      | .idle => dinIdle ws imm8 s
      | .senc => dinSenc ws imm8 s
      | .sdec => dinSdec ws imm8 s

/-- The common form of ENCB and DECB (R134, R135): the checks, then the block transformed, emitted, and BUF emptied. -/
def blockCommand (cmd : CmdWord) (transform : WordSize → Option (List Byte × State)) (s : State) : Result :=
  accept s <|
    if s.MODE ≠ .idle then raise .sequenceError cmd s
    else if s.TVALID = false then raise .sequenceError cmd s
    else withWordSize s fun ws =>
      if s.BCNT.toNat ≠ ws.blockBytes then raise .inputShapeError cmd s
      else need (transform ws) .unwrittenCell fun r => .next { r.2.emit r.1 with BCNT := 0#5 }

/-- R134: ENCB. -/
def execEncb (s : State) : Result := blockCommand (encode .encb) s.encryptBuf? s

/-- R135: DECB. All bb bytes are emitted, zeros included. -/
def execDecb (s : State) : Result := blockCommand (encode .decb) s.decryptBuf? s

end Sys2Proof.Machine
end

