-- ==== Sys2Proof/Machine/ConfigKey.lean ====
section
/-! DEFINITION. The configuration and key commands (41_config_key.md R110 to R113). Checks stand in the order of
60_exceptions.md R185. ERRCMD records the command word, which is the instruction's encoding (log entry 9). -/

namespace Sys2Proof.Machine

open Sys2Proof

/-- R110: SETCFG w, r. -/
def execSetcfg (wbits rounds : BitVec 8) (s : State) : Result :=
  accept s <|
    if s.MODE ≠ .idle then raise .sequenceError (encode (.setcfg wbits rounds)) s
    else if wordSize? wbits = none then raise .configurationError (encode (.setcfg wbits rounds)) s
    else .next { s with W := wbits, R := rounds, TVALID := false, BCNT := 0#5 }

/-- R111: KEYCLR. The bytes of K are not erased. -/
def execKeyclr (s : State) : Result :=
  accept s <|
    if s.MODE ≠ .idle then raise .sequenceError (encode .keyclr) s
    else .next { s with KLEN := 0#8, TVALID := false }

/-- R112: KEYPUSH b. -/
def execKeypush (imm8 : Byte) (s : State) : Result :=
  accept s <|
    if s.MODE ≠ .idle then raise .sequenceError (encode (.keypush imm8)) s
    else if s.KLEN = 255#8 then raise .configurationError (encode (.keypush imm8)) s
    else .next { s with K := s.K.write s.KLEN.toNat imm8, KLEN := s.KLEN + 1#8, TVALID := false }

/-- R113: EXPAND. -/
def execExpand (s : State) : Result :=
  accept s <|
    if s.MODE ≠ .idle then raise .sequenceError (encode .expand) s
    else
      match wordSize? s.W with
      | none => raise .sequenceError (encode .expand) s
      | some ws =>
        need s.key? .unwrittenCell fun key => .next (s.installTable ws (expand ws s.R.toNat key))

end Sys2Proof.Machine
end

