-- ==== Sys2Proof/Machine/Stream.lean ====
section
/-! DEFINITION. The commands that open and close a stream (43_stream.md R145, R148 to R150). DIN's stream modes stand beside
DIN in Block.lean. Checks stand in the order of 60_exceptions.md R185. -/

namespace Sys2Proof.Machine

open Sys2Proof

/-- R145: SBEGIN dir. -/
def execSbegin (dir : Direction) (s : State) : Result :=
  accept s <|
    if s.MODE ≠ .idle then raise .sequenceError (encode (.sbegin dir)) s
    else if s.TVALID = false then raise .sequenceError (encode (.sbegin dir)) s
    else if s.BCNT ≠ 0#5 then raise .sequenceError (encode (.sbegin dir)) s
    else .next { s with MODE := Mode.ofDirection dir, SANY := false, HVALID := false }

/-- R148: SEND in SENC mode. -/
def sendSenc (s : State) : Result :=
  if s.BCNT ≠ 0#5 ∨ s.SANY = false then
    withWordSize s fun ws =>
      need ((s.padBuf ws).encryptBuf? ws) .unwrittenCell fun r =>
        .next { r.2.emit r.1 with BCNT := 0#5, MODE := .idle, SANY := false }
  else .next { s with MODE := .idle, SANY := false }

/-- R149: SEND in SDEC mode. -/
def sendSdec (s : State) : Result :=
  if s.BCNT ≠ 0#5 then raise .inputShapeError (encode .send) s
  else if s.HVALID = true then
    withWordSize s fun ws =>
      need (s.heldBlock? ws) .unwrittenCell fun held =>
        .next { s.emit (stripZeros held) with HVALID := false, MODE := .idle }
  else .next { s with MODE := .idle }

/-- R150: SEND. -/
def execSend (s : State) : Result :=
  accept s <|
    match s.MODE with
    | .idle => raise .sequenceError (encode .send) s
    | .senc => sendSenc s
    | .sdec => sendSdec s

end Sys2Proof.Machine
end

