-- ==== Sys2Proof/Machine/SystemCommands.lean ====
section
/-! DEFINITION. The system commands (44_system.md R165 to R167). -/

namespace Sys2Proof.Machine

open Sys2Proof

/-- R165: NOP, no effect in any state; while faulted it is ignored, "which is the same as its normal effect". -/
def execNop (s : State) : Result := accept s (.next s)

/-- R166: ABORT, executed whether ERR is 0 or not. -/
def execAbort (s : State) : Result := .next s.clearFault.clearFramer

/-- R167: SRST, executed whether ERR is 0 or not. -/
def execSrst (s : State) : Result := .next s.resetEngine

end Sys2Proof.Machine
end

