-- ==== Sys2Proof/Machine/Dispatch.lean ====
section
/-! DEFINITION. One arm per command (60_exceptions.md R182: "do the command's own rule"). Each meaning applies the common
acceptance of R182 itself. -/

namespace Sys2Proof.Machine

open Sys2Proof

def exec (i : Instr) (s : State) : Host.Outcome State Fault Refusal :=
  match i with
  | .nop => Sys2Proof.Machine.execNop s
  | .setcfg wbits rounds => Sys2Proof.Machine.execSetcfg wbits rounds s
  | .keyclr => Sys2Proof.Machine.execKeyclr s
  | .keypush imm8 => Sys2Proof.Machine.execKeypush imm8 s
  | .expand => Sys2Proof.Machine.execExpand s
  | .din imm8 => Sys2Proof.Machine.execDin imm8 s
  | .encb => Sys2Proof.Machine.execEncb s
  | .decb => Sys2Proof.Machine.execDecb s
  | .sbegin dir => Sys2Proof.Machine.execSbegin dir s
  | .send => Sys2Proof.Machine.execSend s
  | .abort => Sys2Proof.Machine.execAbort s
  | .srst => Sys2Proof.Machine.execSrst s

end Sys2Proof.Machine
end

