-- ==== Sys2Proof/Machine/Port.lean ====
section
/-! DEFINITION. The engine's ports: what one host action does (60_exceptions.md R182, 44_system.md R168,
70_reset_and_hazards.md R200, R211). -/

namespace Sys2Proof.Machine

open Sys2Proof

/-- 60_exceptions.md R182: Execute(cmd), the one dispatch function of the engine. The acceptance that the rule puts first
stands in each meaning (`accept`), ABORT and SRST passing by it. -/
def execute (cmd : CmdWord) (s : State) : Result :=
  match decode cmd with
  | .ok i => exec i s
  | .error _ => illegalCommand cmd s

/-- 44_system.md R168: a CSR read. It changes no engine state and emits nothing; what it returned is recorded. -/
def State.observeCsr (s : State) (n : BitVec 2) : State := { s with CSROUT := s.CSROUT ++ [(n, s.csrRead n)] }

/-- 70_reset_and_hazards.md R211: what the host may do, and its effect. -/
def perform (a : HostAction) (s : State) : Result :=
  match a with
  | .command cmd => execute cmd s
  | .csrRead n => .next (s.observeCsr n)
  | .assertReset => .next s.resetEngine

/-- The next action of the host, taken from its list. -/
def State.takeAction? (s : State) : Option (HostAction × State) :=
  match s.pending with
  | [] => none
  | a :: rest => some (a, { s with pending := rest })

/-- The host presents a command next, before what it had in mind. -/
def State.present (s : State) (cmd : CmdWord) : State := { s with pending := .command cmd :: s.pending }

end Sys2Proof.Machine
end

