-- ==== Sys2Proof/Machine/Step.lean ====
section
/-! DEFINITION. One step: the host's next action takes its whole effect (00_scope.md R5, 20_memory.md R58). -/

namespace Sys2Proof.Machine

open Sys2Proof

/-- R58: actions take effect one at a time in the order the host chooses. With none left the engine waits, which has no
effect (70_reset_and_hazards.md R211, log entry 8). -/
def step (s : State) : Host.Outcome State Fault Refusal :=
  match s.takeAction? with
  | none => .next s
  | some (a, s1) => perform a s1

/-- The state in which the next step runs the command word given by the opcode table's numbering of bits: there is no
program counter (10_state.md R33), so the word is what the host presents next (log entry 6). -/
def State.withFetchWord (s : State) (nbits w : Nat) : State := s.present (tableCmdWord nbits w)

end Sys2Proof.Machine
end

