-- ==== Sys2Proof/Machine/Pseudo.lean ====
section
/-! DEFINITION. The assembler forms of 30_encoding.md: the text of a command (R80) and the seven pseudo-instructions with
their expansions (R81). The engine sees only the expansion. -/

namespace Sys2Proof.Machine

open Sys2Proof

/-- R80: the text of a command, operands in decimal. -/
def asmText : Instr → String
  | .nop => "NOP"
  | .setcfg wbits rounds => "SETCFG " ++ toString wbits.toNat ++ ", " ++ toString rounds.toNat
  | .keyclr => "KEYCLR"
  | .keypush b => "KEYPUSH " ++ toString b.toNat
  | .expand => "EXPAND"
  | .din b => "DIN " ++ toString b.toNat
  | .encb => "ENCB"
  | .decb => "DECB"
  | .sbegin .enc => "SBEGIN ENC"
  | .sbegin .dec => "SBEGIN DEC"
  | .send => "SEND"
  | .abort => "ABORT"
  | .srst => "SRST"

/-- R81: the pseudo-instructions. KEY takes 0..255 bytes. -/
inductive Pseudo where
  | key (bytes : List Byte)
  | setup (wbits rounds : BitVec 8) (bytes : List Byte)
  | data (bytes : List Byte)
  | encblk (block : List Byte)
  | decblk (block : List Byte)
  | encode (plaintext : List Byte)
  | decode (ciphertext : List Byte)
  deriving DecidableEq, Repr

/-- R81: the command sequence of a pseudo-instruction. -/
def expansion : Pseudo → List Instr
  | .key bytes => .keyclr :: bytes.map .keypush
  | .setup wbits rounds bytes => .setcfg wbits rounds :: (.keyclr :: bytes.map .keypush) ++ [.expand]
  | .data bytes => bytes.map .din
  | .encblk block => block.map .din ++ [.encb]
  | .decblk block => block.map .din ++ [.decb]
  | .encode p => .sbegin .enc :: p.map .din ++ [.send]
  | .decode ct => .sbegin .dec :: ct.map .din ++ [.send]

/-- The host presents a list of commands, before what it had in mind. -/
def State.presentAll (s : State) (cmds : List Instr) : State :=
  { s with pending := cmds.map (fun c => .command (encode c)) ++ s.pending }

end Sys2Proof.Machine
end

