-- ==== Sys2Proof/Safety.lean ====
section
/-! DEFINITION. The terms that claims are stated in: the invariants of 10_state.md R40 and R26, the fault table of
60_exceptions.md R190, runs of commands, and the clean end of a run (70_reset_and_hazards.md R210). -/

namespace Sys2Proof.Machine

open Sys2Proof

/-- Every element of `array[0..n-1]` has been written since reset. -/
abbrev Memory.written {α : Type} (m : Memory α) (n : Nat) : Prop := (m.readList 0 n).isSome = true

/-- Every index written lies below `n`. -/
abbrev Memory.below {α : Type} (m : Memory α) (n : Nat) : Prop := ∀ c ∈ m, c.1 < n

/-- 10_state.md R40: what always holds between commands. Item 1's ranges of MODE and ERR are in their types. The last two
fields are the model's own: the arrays are in canonical form and lie within the indices of 20_memory.md R50. -/
structure StateInv (s : State) : Prop where
  /-- item 1 -/
  wLegal : s.W = 0#8 ∨ s.W = 16#8 ∨ s.W = 32#8 ∨ s.W = 64#8
  /-- item 2 -/
  tableConfigured : s.TVALID = true → s.cfgv = true
  /-- item 3 -/
  streamHasTable : s.MODE ≠ .idle → s.TVALID = true
  /-- item 4 -/
  bytesConfigured : s.BCNT ≠ 0#5 → s.cfgv = true
  /-- item 4 -/
  bytesFit : ∀ ws, wordSize? s.W = some ws → s.BCNT.toNat ≤ ws.blockBytes
  /-- item 4 -/
  streamBytesFit : s.MODE ≠ .idle → ∀ ws, wordSize? s.W = some ws → s.BCNT.toNat ≤ ws.blockBytes - 1
  /-- item 5 -/
  heldInDecode : s.HVALID = true → s.MODE = .sdec
  /-- item 5 -/
  emittedInEncode : s.SANY = true → s.MODE = .senc
  /-- item 6 -/
  noFaultNoWord : s.ERR = .noFault → s.ERRCMD = 0#32
  /-- item 6 -/
  faultHasWord : s.ERR ≠ .noFault → s.ERRCMD ≠ 0#32
  /-- item 7 -/
  keyWritten : s.K.written s.KLEN.toNat
  /-- item 7 -/
  tableWritten : s.TVALID = true → s.S.written (tableWords s.R.toNat)
  /-- item 7 -/
  bufWritten : s.BUF.written s.BCNT.toNat
  /-- item 7 -/
  holdWritten : s.HVALID = true → ∀ ws, wordSize? s.W = some ws → s.HOLD.written ws.blockBytes
  /-- canonical form -/
  canonical : s.K.wf = true ∧ s.L.wf = true ∧ s.S.wf = true ∧ s.BUF.wf = true ∧ s.HOLD.wf = true
  /-- 20_memory.md R50 -/
  inRange : s.K.below Config.keyCells ∧ s.L.below Config.keyWordCells ∧ s.S.below Config.tableCells ∧
    s.BUF.below Config.bufCells ∧ s.HOLD.below Config.holdCells

/-- 10_state.md R26: TVALID says that S[0..t-1] equals `Expand(K[0..KLEN-1], W, R)`. -/
def TableMatchesKey (s : State) : Prop :=
  s.TVALID = true → ∃ ws key, wordSize? s.W = some ws ∧ s.key? = some key ∧
    s.S.readList 0 (tableWords s.R.toNat) = some ((expand ws s.R.toNat key).S.map wordCell)

/-- 60_exceptions.md R190: the fault a well-formed command raises in a state with ERR = 0, from the table, column by
column. `bb` is W/4 (10_state.md R21). -/
def faultOf (i : Instr) (s : State) : ErrCode :=
  let bb := s.W.toNat / 4
  match i with
  | .nop => .noFault
  | .setcfg wbits _ =>
    if s.MODE ≠ .idle then .sequenceError
    else if ¬ (wbits = 16#8 ∨ wbits = 32#8 ∨ wbits = 64#8) then .configurationError
    else .noFault
  | .keyclr => if s.MODE ≠ .idle then .sequenceError else .noFault
  | .keypush _ =>
    if s.MODE ≠ .idle then .sequenceError
    else if s.KLEN = 255#8 then .configurationError
    else .noFault
  | .expand => if s.MODE ≠ .idle ∨ s.cfgv = false then .sequenceError else .noFault
  | .din _ =>
    if s.cfgv = false then .sequenceError
    else if s.MODE = .idle ∧ s.BCNT.toNat = bb then .inputShapeError
    else .noFault
  | .encb =>
    if s.MODE ≠ .idle ∨ s.TVALID = false then .sequenceError
    else if s.BCNT.toNat ≠ bb then .inputShapeError
    else .noFault
  | .decb =>
    if s.MODE ≠ .idle ∨ s.TVALID = false then .sequenceError
    else if s.BCNT.toNat ≠ bb then .inputShapeError
    else .noFault
  | .sbegin _ => if s.MODE ≠ .idle ∨ s.TVALID = false ∨ s.BCNT ≠ 0#5 then .sequenceError else .noFault
  | .send =>
    if s.MODE = .idle then .sequenceError
    else if s.MODE = .sdec ∧ s.BCNT ≠ 0#5 then .inputShapeError
    else .noFault
  | .abort => .noFault
  | .srst => .noFault

/-- The commands of a list executed in order, until one stops the model. -/
def runCommands : List Instr → State → Result
  | [], s => .next s
  | i :: is, s =>
    match exec i s with
    | .next t => runCommands is t
    | .fault f => .fault f
    | .refused r => .refused r

/-- 70_reset_and_hazards.md R210: a run ends cleanly when ERR = 0 and MODE = IDLE and BCNT = 0. -/
def State.clean (s : State) : Bool := decide (s.ERR = .noFault ∧ s.MODE = .idle ∧ s.BCNT = 0#5)

end Sys2Proof.Machine
end

