-- ==== Sys2Proof/Certificates/Slice0/Obligations.lean ====
section
/-! DEFINITION. What is claimed of the model, one `def Obligations.<Name> : Prop` each, from the numbered rules of spec/.
Where a statement says `t = { s with … }`, every field not named is unchanged, and a field given as `t.X` is described by
the clauses that follow, or is a scratch register (A, B, i, j, k), about which nothing is claimed. -/

open Sys2Proof Sys2Proof.Machine

/-! ### Encoding, 30_encoding.md -/

/-- Decoding the word of an instruction gives the instruction back, at every operand value. -/
def Obligations.DecodeOfEncode : Prop :=
  ∀ i : Instr, decode (encode i) = .ok i

/-- R78: every 32-bit word has exactly one meaning, one command with its operands, or illegal. -/
def Obligations.EveryWordHasOneMeaning : Prop :=
  ∀ cmd : CmdWord,
    (∃ i, decode cmd = .ok i ∧ encode i = cmd ∧ ∀ i', encode i' = cmd → i' = i) ∨
    ((∃ e, decode cmd = .error e) ∧ ∀ i, encode i ≠ cmd)

/-- R75: a word is a row's command, well formed, exactly when `(cmd AND mask) = match`. -/
def Obligations.RowsAdmitTheirCommand : Prop :=
  ∀ cmd : CmdWord, ∀ row ∈ opcodeMap,
    (row.admits cmd = true ↔ ∃ i, decode cmd = .ok i ∧ i.mnemonic = row.mnemonic)

/-- R77: which words are illegal, and why: an opcode above 0x0B, or a bit set that the opcode's format reserves; and of
the 2^32 words, 66058 are well formed. -/
def Obligations.IllegalWordsByKindAndCount : Prop :=
  (∀ cmd : CmdWord,
    (decode cmd = .error .unassignedOpcode ↔ 0x0C000000#32 ≤ cmd) ∧
    (decode cmd = .error .reservedBits ↔ cmd < 0x0C000000#32 ∧ wordWellFormed cmd = false)) ∧
  ∃ words : List CmdWord, words.Nodup ∧ words.length = 66058 ∧ ∀ cmd, cmd ∈ words ↔ wordWellFormed cmd = true

/-- R80: the word of each command as a number. -/
def Obligations.WordsOfTheAssembler : Prop :=
  (∀ w r : BitVec 8, (encode (.setcfg w r)).toNat = 0x01000000 + 256 * r.toNat + w.toNat) ∧
  (∀ b : Byte, (encode (.keypush b)).toNat = 0x03000000 + b.toNat ∧ (encode (.din b)).toNat = 0x05000000 + b.toNat) ∧
  encode .nop = 0x00000000#32 ∧ encode .keyclr = 0x02000000#32 ∧ encode .expand = 0x04000000#32 ∧
  encode .encb = 0x06000000#32 ∧ encode .decb = 0x07000000#32 ∧
  encode (.sbegin .enc) = 0x08000000#32 ∧ encode (.sbegin .dec) = 0x08000001#32 ∧
  encode .send = 0x09000000#32 ∧ encode .abort = 0x0A000000#32 ∧ encode .srst = 0x0B000000#32

/-- Words written out from R71 to R75 decode to the commands they stand for, and words with a reserved bit to none. -/
def Obligations.SampleWordsDecode : Prop :=
  decode 0x01000C20#32 = .ok (.setcfg 32#8 12#8) ∧ decode 0x030000FF#32 = .ok (.keypush 0xFF#8) ∧
  decode 0x05000080#32 = .ok (.din 0x80#8) ∧ decode 0x07000000#32 = .ok .decb ∧
  decode 0x08000001#32 = .ok (.sbegin .dec) ∧ decode 0x0B000000#32 = .ok .srst ∧
  decode 0x00000001#32 = .error .reservedBits ∧ decode 0x01010020#32 = .error .reservedBits ∧
  decode 0x08000002#32 = .error .reservedBits ∧ decode 0x0C000000#32 = .error .unassignedOpcode

/-! ### Steps and host actions -/

/-- A step runs the command the host presents, and nothing else; a word placed by `withFetchWord` runs at the very next
step. There is no program counter to move (10_state.md R33): the host's list moves on by one. -/
def Obligations.StepRunsThePresentedCommand : Prop :=
  (∀ (s : State) (cmd : CmdWord) (rest : List HostAction) (i : Instr), s.pending = .command cmd :: rest →
    decode cmd = .ok i → step s = exec i { s with pending := rest }) ∧
  (∀ (s : State) (nbits w : Nat) (i : Instr), decodeTableWord nbits w = some i →
    step (s.withFetchWord nbits w) = exec i s)

/-- R179: a word that is not well formed raises IllegalCommand when ERR = 0, in every mode and whatever the flags. -/
def Obligations.IllegalWordsRaiseIllegalCommand : Prop :=
  ∀ (s : State) (cmd : CmdWord) (rest : List HostAction), s.pending = .command cmd :: rest →
    wordWellFormed cmd = false → s.ERR = .noFault →
    step s = .next { s with pending := rest, ERR := .illegalCommand, ERRCMD := cmd }

/-- R182: Execute(cmd), line by line: SRST first, then the faulted condition, then the illegal word, then the command's own
rule. -/
def Obligations.ExecuteIsTheCommonAcceptance : Prop :=
  ∀ (cmd : CmdWord) (s : State), execute cmd s =
    if decode cmd = .ok .srst then execSrst s
    else if s.ERR ≠ .noFault then
      if decode cmd = .ok .abort then execAbort s else .next s
    else
      match decode cmd with
      | .error _ => .next { s with ERR := .illegalCommand, ERRCMD := cmd }
      | .ok i => exec i s

/-- R184: while a fault is latched, every word but ABORT and SRST is ignored, so no second fault is taken. -/
def Obligations.FaultedEngineIgnoresCommands : Prop :=
  ∀ (s : State) (cmd : CmdWord) (rest : List HostAction), s.pending = .command cmd :: rest →
    s.ERR ≠ .noFault → cmd ≠ 0x0A000000#32 → cmd ≠ 0x0B000000#32 →
    step s = .next { s with pending := rest }

/-- R168, R200, R211: what the host does besides commands: waiting changes nothing, a CSR read changes nothing but the
record of reads, and the reset input does what SRST does. That a wait is a step which leaves the state alone, and that
reads are recorded in CSROUT, is the model's form (log entries 7, 8). -/
def Obligations.OtherHostActions : Prop :=
  (∀ s : State, s.pending = [] → step s = .next s) ∧
  (∀ (s : State) (n : BitVec 2) (rest : List HostAction), s.pending = .csrRead n :: rest →
    step s = .next { s with pending := rest, CSROUT := s.CSROUT ++ [(n, s.csrRead n)] }) ∧
  (∀ (s : State) (rest : List HostAction), s.pending = .assertReset :: rest →
    step s = exec .srst { s with pending := rest })

/-! ### Configuration and key commands, 41_config_key.md -/

/-- R110: SETCFG, its effect and its two faults. -/
def Obligations.SetcfgSetsTheParameters : Prop :=
  ∀ (s : State) (wbits rounds : BitVec 8), s.ERR = .noFault →
    (s.MODE = .idle → (wbits = 16#8 ∨ wbits = 32#8 ∨ wbits = 64#8) → ∃ t,
      exec (.setcfg wbits rounds) s = .next t ∧
      t = { s with W := wbits, R := rounds, TVALID := false, BCNT := 0#5 } ∧ t.cfgv = true) ∧
    (s.MODE ≠ .idle → exec (.setcfg wbits rounds) s =
      .next { s with ERR := .sequenceError, ERRCMD := encode (.setcfg wbits rounds) }) ∧
    (s.MODE = .idle → ¬ (wbits = 16#8 ∨ wbits = 32#8 ∨ wbits = 64#8) → exec (.setcfg wbits rounds) s =
      .next { s with ERR := .configurationError, ERRCMD := encode (.setcfg wbits rounds) })

/-- R111: KEYCLR empties the key; the bytes of K, W and R are kept. -/
def Obligations.KeyclrEmptiesTheKey : Prop :=
  ∀ s : State, s.ERR = .noFault →
    (s.MODE = .idle → exec .keyclr s = .next { s with KLEN := 0#8, TVALID := false }) ∧
    (s.MODE ≠ .idle → exec .keyclr s = .next { s with ERR := .sequenceError, ERRCMD := encode .keyclr })

/-- R112: KEYPUSH appends one byte at K[KLEN] and changes no other element; the 256th byte is a ConfigurationError. -/
def Obligations.KeypushAppendsAByte : Prop :=
  ∀ (s : State) (b : Byte), s.ERR = .noFault →
    (s.MODE = .idle → s.KLEN ≠ 255#8 → ∃ t, exec (.keypush b) s = .next t ∧
      t = { s with K := t.K, KLEN := s.KLEN + 1#8, TVALID := false } ∧
      t.KLEN.toNat = s.KLEN.toNat + 1 ∧
      t.K.read s.KLEN.toNat = some b ∧ (∀ a, a ≠ s.KLEN.toNat → t.K.read a = s.K.read a) ∧
      ∀ key, s.key? = some key → t.key? = some (key ++ [b])) ∧
    (s.MODE ≠ .idle → exec (.keypush b) s =
      .next { s with ERR := .sequenceError, ERRCMD := encode (.keypush b) }) ∧
    (s.MODE = .idle → s.KLEN = 255#8 → exec (.keypush b) s =
      .next { s with ERR := .configurationError, ERRCMD := encode (.keypush b) })

/-- R113: EXPAND writes L[0..c-1] and S[0..t-1] with Expand's result and sets TVALID; it leaves K, KLEN, BUF and BCNT
alone; it faults in a stream and when unconfigured. -/
def Obligations.ExpandInstallsTheTable : Prop :=
  ∀ s : State, s.ERR = .noFault →
    (∀ ws key, s.MODE = .idle → wordSize? s.W = some ws → s.key? = some key → ∃ t,
      exec .expand s = .next t ∧
      t = { s with L := t.L, S := t.S, TVALID := true, A := t.A, B := t.B, i := t.i, j := t.j, k := t.k } ∧
      t.S.readList 0 (tableWords s.R.toNat) = some ((expand ws s.R.toNat key).S.map wordCell) ∧
      t.L.readList 0 (keyWords ws key.length) = some ((expand ws s.R.toNat key).L.map wordCell) ∧
      (∀ a, tableWords s.R.toNat ≤ a → t.S.read a = s.S.read a) ∧
      (∀ a, keyWords ws key.length ≤ a → t.L.read a = s.L.read a)) ∧
    (s.MODE ≠ .idle → exec .expand s = .next { s with ERR := .sequenceError, ERRCMD := encode .expand }) ∧
    (s.MODE = .idle → s.cfgv = false → exec .expand s =
      .next { s with ERR := .sequenceError, ERRCMD := encode .expand })

/-! ### Data input and block commands, 42_block.md -/

/-- R131, R130: DIN in IDLE mode stores one byte at BUF[BCNT], or raises InputShapeError when BUF holds a whole block; in
every mode it raises SequenceError when the engine is unconfigured. -/
def Obligations.DinIdleStoresAByte : Prop :=
  (∀ (s : State) (b : Byte) (ws : WordSize), s.ERR = .noFault → s.MODE = .idle → wordSize? s.W = some ws →
    (s.BCNT.toNat < ws.blockBytes → ∃ t, exec (.din b) s = .next t ∧
      t = { s with BUF := t.BUF, BCNT := s.BCNT + 1#5 } ∧ t.BCNT.toNat = s.BCNT.toNat + 1 ∧
      t.BUF.read s.BCNT.toNat = some b ∧ ∀ a, a ≠ s.BCNT.toNat → t.BUF.read a = s.BUF.read a) ∧
    (s.BCNT.toNat = ws.blockBytes → exec (.din b) s =
      .next { s with ERR := .inputShapeError, ERRCMD := encode (.din b) })) ∧
  (∀ (s : State) (b : Byte), s.ERR = .noFault → s.cfgv = false →
    exec (.din b) s = .next { s with ERR := .sequenceError, ERRCMD := encode (.din b) })

/-- R134: ENCB emits EncBlock of BUF[0..bb-1] and empties BUF; its faults in order. -/
def Obligations.EncbEmitsTheEncryptedBlock : Prop :=
  ∀ s : State, s.ERR = .noFault →
    (∀ ws X T, s.MODE = .idle → s.TVALID = true → wordSize? s.W = some ws → s.BCNT.toNat = ws.blockBytes →
      s.BUF.readList 0 ws.blockBytes = some X → s.table? ws = some T → ∃ t,
      exec .encb s = .next t ∧
      t = { s with OUT := s.OUT ++ encBlock ws T s.R.toNat X, BCNT := 0#5, A := t.A, B := t.B, k := t.k } ∧
      (encBlock ws T s.R.toNat X).length = ws.blockBytes) ∧
    (s.MODE ≠ .idle ∨ s.TVALID = false → exec .encb s =
      .next { s with ERR := .sequenceError, ERRCMD := encode .encb }) ∧
    (∀ ws, s.MODE = .idle → s.TVALID = true → wordSize? s.W = some ws → s.BCNT.toNat ≠ ws.blockBytes →
      exec .encb s = .next { s with ERR := .inputShapeError, ERRCMD := encode .encb })

/-- R135: DECB emits DecBlock of BUF[0..bb-1], all bb bytes of it, and empties BUF; its faults in order. -/
def Obligations.DecbEmitsTheDecryptedBlock : Prop :=
  ∀ s : State, s.ERR = .noFault →
    (∀ ws X T, s.MODE = .idle → s.TVALID = true → wordSize? s.W = some ws → s.BCNT.toNat = ws.blockBytes →
      s.BUF.readList 0 ws.blockBytes = some X → s.table? ws = some T → ∃ t,
      exec .decb s = .next t ∧
      t = { s with OUT := s.OUT ++ decBlock ws T s.R.toNat X, BCNT := 0#5, A := t.A, B := t.B, k := t.k } ∧
      (decBlock ws T s.R.toNat X).length = ws.blockBytes) ∧
    (s.MODE ≠ .idle ∨ s.TVALID = false → exec .decb s =
      .next { s with ERR := .sequenceError, ERRCMD := encode .decb }) ∧
    (∀ ws, s.MODE = .idle → s.TVALID = true → wordSize? s.W = some ws → s.BCNT.toNat ≠ ws.blockBytes →
      exec .decb s = .next { s with ERR := .inputShapeError, ERRCMD := encode .decb })

/-! ### Stream commands, 43_stream.md -/

/-- R145: SBEGIN opens a stream; its three faults, all SequenceError. -/
def Obligations.SbeginOpensAStream : Prop :=
  ∀ (s : State) (dir : Direction), s.ERR = .noFault →
    (s.MODE = .idle → s.TVALID = true → s.BCNT = 0#5 → exec (.sbegin dir) s =
      .next { s with MODE := (match dir with | .enc => .senc | .dec => .sdec), SANY := false, HVALID := false }) ∧
    (s.MODE ≠ .idle ∨ s.TVALID = false ∨ s.BCNT ≠ 0#5 → exec (.sbegin dir) s =
      .next { s with ERR := .sequenceError, ERRCMD := encode (.sbegin dir) })

/-- R146: DIN in SENC mode stores the byte, and encrypts and emits the block it completes. -/
def Obligations.DinSencEncryptsEachBlock : Prop :=
  ∀ (s : State) (b : Byte) (ws : WordSize) (X : List Byte) (T : List (BitVec ws.bits)),
    s.ERR = .noFault → s.MODE = .senc → wordSize? s.W = some ws → s.BUF.readList 0 s.BCNT.toNat = some X →
    s.table? ws = some T →
    (s.BCNT.toNat + 1 < ws.blockBytes → ∃ t, exec (.din b) s = .next t ∧
      t = { s with BUF := t.BUF, BCNT := s.BCNT + 1#5 } ∧ t.BUF.readList 0 (s.BCNT.toNat + 1) = some (X ++ [b]) ∧
      ∀ a, a ≠ s.BCNT.toNat → t.BUF.read a = s.BUF.read a) ∧
    (s.BCNT.toNat + 1 = ws.blockBytes → ∃ t, exec (.din b) s = .next t ∧
      t = { s with BUF := t.BUF, BCNT := 0#5, SANY := true, OUT := s.OUT ++ encBlock ws T s.R.toNat (X ++ [b]),
                   A := t.A, B := t.B, k := t.k } ∧
      t.BUF.readList 0 ws.blockBytes = some (X ++ [b]) ∧ ∀ a, a ≠ s.BCNT.toNat → t.BUF.read a = s.BUF.read a)

/-- R147: DIN in SDEC mode stores the byte; when it completes a block, the block held back is emitted unmodified and the
decryption of the new one takes its place. -/
def Obligations.DinSdecHoldsTheLastBlock : Prop :=
  ∀ (s : State) (b : Byte) (ws : WordSize) (X H : List Byte) (T : List (BitVec ws.bits)),
    s.ERR = .noFault → s.MODE = .sdec → wordSize? s.W = some ws → s.BUF.readList 0 s.BCNT.toNat = some X →
    s.table? ws = some T → (s.HVALID = true → s.HOLD.readList 0 ws.blockBytes = some H) →
    (s.BCNT.toNat + 1 < ws.blockBytes → ∃ t, exec (.din b) s = .next t ∧
      t = { s with BUF := t.BUF, BCNT := s.BCNT + 1#5 } ∧ t.BUF.readList 0 (s.BCNT.toNat + 1) = some (X ++ [b]) ∧
      ∀ a, a ≠ s.BCNT.toNat → t.BUF.read a = s.BUF.read a) ∧
    (s.BCNT.toNat + 1 = ws.blockBytes → ∃ t, exec (.din b) s = .next t ∧
      t = { s with BUF := t.BUF, BCNT := 0#5, HOLD := t.HOLD, HVALID := true,
                   OUT := s.OUT ++ (if s.HVALID = true then H else []), A := t.A, B := t.B, k := t.k } ∧
      t.BUF.readList 0 ws.blockBytes = some (X ++ [b]) ∧ (∀ a, a ≠ s.BCNT.toNat → t.BUF.read a = s.BUF.read a) ∧
      t.HOLD.readList 0 ws.blockBytes = some (decBlock ws T s.R.toNat (X ++ [b])) ∧
      ∀ a, ws.blockBytes ≤ a → t.HOLD.read a = s.HOLD.read a)

/-- R148: SEND in SENC mode pads and encrypts a short last chunk, or a block of zeros when nothing was emitted, and adds
nothing to a whole number of blocks. -/
def Obligations.SendSencPadsTheLastBlock : Prop :=
  ∀ (s : State) (ws : WordSize), s.ERR = .noFault → s.MODE = .senc → wordSize? s.W = some ws →
    (∀ X T, s.BCNT ≠ 0#5 ∨ s.SANY = false → s.BCNT.toNat < ws.blockBytes →
      s.BUF.readList 0 s.BCNT.toNat = some X → s.table? ws = some T → ∃ t, exec .send s = .next t ∧
      t = { s with BUF := t.BUF, BCNT := 0#5, MODE := .idle, SANY := false,
                   OUT := s.OUT ++ encBlock ws T s.R.toNat (X ++ List.replicate (ws.blockBytes - X.length) 0#8),
                   A := t.A, B := t.B, k := t.k } ∧
      t.BUF.readList 0 ws.blockBytes = some (X ++ List.replicate (ws.blockBytes - X.length) 0#8) ∧
      ∀ a, ws.blockBytes ≤ a → t.BUF.read a = s.BUF.read a) ∧
    (s.BCNT = 0#5 → s.SANY = true → exec .send s = .next { s with MODE := .idle, SANY := false })

/-- R149: SEND in SDEC mode checks the shape, then emits the held block with its trailing zeros stripped. -/
def Obligations.SendSdecStripsTheLastBlock : Prop :=
  ∀ s : State, s.ERR = .noFault → s.MODE = .sdec →
    (s.BCNT ≠ 0#5 → exec .send s = .next { s with ERR := .inputShapeError, ERRCMD := encode .send }) ∧
    (s.BCNT = 0#5 → s.HVALID = false → exec .send s = .next { s with MODE := .idle }) ∧
    (∀ ws H, s.BCNT = 0#5 → s.HVALID = true → wordSize? s.W = some ws → s.HOLD.readList 0 ws.blockBytes = some H →
      exec .send s = .next { s with OUT := s.OUT ++ stripZeros H, HVALID := false, MODE := .idle })

/-! ### System commands and CSRs -/

/-- R165: NOP changes nothing, in any state. -/
def Obligations.NopHasNoEffect : Prop :=
  ∀ s : State, exec .nop s = .next s

/-- R166: ABORT clears the fault latch and the framer, faulted or not, and keeps everything else. -/
def Obligations.AbortClearsFaultAndFramer : Prop :=
  ∀ s : State, exec .abort s =
    .next { s with ERR := .noFault, ERRCMD := 0#32, MODE := .idle, BCNT := 0#5, HVALID := false, SANY := false }

/-- R167, R42: SRST gives every register that has a reset value its reset value, faulted or not, emits nothing, and leaves
no element of an array readable: "unspecified" contents as unwritten cells is the model's form (10_state.md R42, log
entry 2). What the scratch registers hold is free (log entry 4). And nothing after SRST depends on the key, the table, the
block buffers or any register of the state before: two states with the same observations, the same host and the same
counter of free values go to the same state. -/
def Obligations.SrstResetsTheEngine : Prop :=
  (∀ s : State, ∃ t, exec .srst s = .next t ∧
    t.W = 0#8 ∧ t.R = 0#8 ∧ t.KLEN = 0#8 ∧ t.TVALID = false ∧ t.MODE = .idle ∧ t.BCNT = 0#5 ∧ t.HVALID = false ∧
    t.SANY = false ∧ t.ERR = .noFault ∧ t.ERRCMD = 0#32 ∧ t.OUT = s.OUT ∧ t.CSROUT = s.CSROUT ∧ t.pending = s.pending ∧
    (∀ n, t.csrRead n = 0#32) ∧
    ∀ a, t.K.read a = none ∧ t.L.read a = none ∧ t.S.read a = none ∧ t.BUF.read a = none ∧ t.HOLD.read a = none) ∧
  (∀ s s' : State, s.OUT = s'.OUT → s.CSROUT = s'.CSROUT → s.pending = s'.pending → s.freeCount = s'.freeCount →
    exec .srst s = exec .srst s')

/-- R36, R37: the value a CSR read returns (R168), as a number. -/
def Obligations.CsrReadValues : Prop :=
  ∀ s : State,
    (s.csrRead 0#2).toNat =
      (match s.MODE with | .idle => 0 | .senc => 1 | .sdec => 2) +
      4 * (if s.W = 16#8 ∨ s.W = 32#8 ∨ s.W = 64#8 then 1 else 0) + 8 * s.TVALID.toNat + 16 * s.HVALID.toNat +
      32 * s.SANY.toNat + 256 * s.BCNT.toNat +
      65536 * (match s.ERR with
        | .noFault => 0 | .configurationError => 1 | .inputShapeError => 2 | .sequenceError => 3 | .illegalCommand => 4) ∧
    (s.csrRead 1#2).toNat = s.W.toNat + 256 * s.R.toNat ∧
    (s.csrRead 2#2).toNat = s.KLEN.toNat ∧
    s.csrRead 3#2 = s.ERRCMD

/-- R186: err_o is 1 exactly while ERR is not 0, and says no more than STATUS[23:16]. -/
def Obligations.ErrLineFollowsErr : Prop :=
  ∀ s : State, (s.errO = true ↔ s.ERR ≠ .noFault) ∧
    (s.errO = true ↔ (s.csrRead 0#2).extractLsb' 16 8 ≠ 0#8)

/-- R39: no CSR returns anything of K, L, S, BUF, HOLD or the scratch registers: two states that agree on the registers
STATUS, CFG, KLEN and ERRCMD are made of read the same at every index. -/
def Obligations.CsrReadsRevealNoSecret : Prop :=
  ∀ s s' : State, s.W = s'.W → s.R = s'.R → s.KLEN = s'.KLEN → s.TVALID = s'.TVALID → s.BCNT = s'.BCNT →
    s.HVALID = s'.HVALID → s.MODE = s'.MODE → s.SANY = s'.SANY → s.ERR = s'.ERR → s.ERRCMD = s'.ERRCMD →
    ∀ n, s.csrRead n = s'.csrRead n

/-! ### Faults, 60_exceptions.md -/

/-- R190: the complete fault table: every command answers a next state, whose ERR is the table's entry; where the table
has a fault, ERR and the command word in ERRCMD are all that changes; and an illegal word raises IllegalCommand, nothing
else. -/
def Obligations.FaultsAreThoseOfTheTable : Prop :=
  ∀ s : State, StateInv s → s.ERR = .noFault →
    (∀ i : Instr, ∃ t, exec i s = .next t ∧ t.ERR = faultOf i s ∧
      (faultOf i s ≠ .noFault → t = { s with ERR := faultOf i s, ERRCMD := encode i })) ∧
    ∀ cmd e, decode cmd = .error e → execute cmd s = .next { s with ERR := .illegalCommand, ERRCMD := cmd }

/-- R181: a command that faults has taken no effect but ERR and ERRCMD, and emitted nothing. -/
def Obligations.FaultsArePrecise : Prop :=
  ∀ (i : Instr) (s t : State), s.ERR = .noFault → exec i s = .next t → t.ERR ≠ .noFault →
    t = { s with ERR := t.ERR, ERRCMD := encode i }

/-- R203: a successful SETCFG, KEYCLR or KEYPUSH makes the table stale, a faulting one leaves TVALID as it was, and while
the table is stale no block is transformed and no stream opens. -/
def Obligations.StaleTableIsNotUsed : Prop :=
  ∀ (s : State) (i : Instr), s.ERR = .noFault →
    (s.TVALID = false → (i = .encb ∨ i = .decb ∨ ∃ dir, i = .sbegin dir) →
      exec i s = .next { s with ERR := .sequenceError, ERRCMD := encode i }) ∧
    (((∃ w r, i = .setcfg w r) ∨ i = .keyclr ∨ ∃ b, i = .keypush b) → ∃ t, exec i s = .next t ∧
      (t.ERR = .noFault → t.TVALID = false) ∧ (t.ERR ≠ .noFault → t.TVALID = s.TVALID))

/-- R204: in a stream W, R, K, KLEN, L and S are frozen until SRST, and the commands that would change them, or use the
framer's buffer, fault with SequenceError and change nothing. -/
def Obligations.StreamsFreezeKeyAndTable : Prop :=
  (∀ (s : State) (i : Instr), s.ERR = .noFault → s.MODE ≠ .idle →
    ((∃ w r, i = .setcfg w r) ∨ i = .keyclr ∨ (∃ b, i = .keypush b) ∨ i = .expand ∨ i = .encb ∨ i = .decb ∨
      ∃ dir, i = .sbegin dir) →
    exec i s = .next { s with ERR := .sequenceError, ERRCMD := encode i }) ∧
  (∀ (s t : State) (i : Instr), s.MODE ≠ .idle → i ≠ .srst → exec i s = .next t →
    t.W = s.W ∧ t.R = s.R ∧ t.K = s.K ∧ t.KLEN = s.KLEN ∧ t.L = s.L ∧ t.S = s.S ∧ t.TVALID = s.TVALID)

/-- R25: nothing but EXPAND writes S, and nothing but EXPAND writes L (R24); SRST leaves their contents unspecified. Only
KEYPUSH writes K, and EXPAND never does (R61). -/
def Obligations.OnlyExpandWritesTheTable : Prop :=
  ∀ (s t : State) (i : Instr), exec i s = .next t → i ≠ .srst →
    (i ≠ .expand → t.S = s.S ∧ t.L = s.L) ∧ ((∀ b, i ≠ .keypush b) → t.K = s.K)

/-- R41, R205: emitted bytes are not retracted: every step leaves OUT as it was, or longer. -/
def Obligations.OutputIsAppendOnly : Prop :=
  ∀ s t : State, step s = .next t → s.OUT <+: t.OUT

/-! ### Word primitives, 40_word_primitives.md and 20_memory.md -/

/-- R90, R91, R92: addition, subtraction and exclusive-or as numbers, and their inverses. -/
def Obligations.ModularArithmetic : Prop :=
  ∀ (w : Nat) (x y : BitVec w),
    (addw x y).toNat = (x.toNat + y.toNat) % 2 ^ w ∧
    ((subw x y).toNat : Int) = ((x.toNat : Int) - (y.toNat : Int)) % 2 ^ w ∧
    (∀ q, (xorw x y).getLsbD q = (x.getLsbD q != y.getLsbD q)) ∧
    subw (addw x y) y = x ∧ addw (subw x y) y = x ∧ xorw (xorw x y) y = x

/-- R93: ROTL as a number, and where each bit goes. -/
def Obligations.RotlMovesBits : Prop :=
  ∀ (w : Nat) (x : BitVec w) (s : Nat), 0 < w →
    (s % w = 0 → rotl x s = x) ∧
    (s % w ≠ 0 → (rotl x s).toNat = (x.toNat * 2 ^ (s % w)) % 2 ^ w + x.toNat / 2 ^ (w - s % w)) ∧
    ∀ q, q < w → (rotl x s).getLsbD q = x.getLsbD ((q + (w - s % w)) % w)

/-- R94: ROTR as a number, and where each bit goes. -/
def Obligations.RotrMovesBits : Prop :=
  ∀ (w : Nat) (x : BitVec w) (s : Nat), 0 < w →
    (s % w = 0 → rotr x s = x) ∧
    (s % w ≠ 0 → (rotr x s).toNat = x.toNat / 2 ^ (s % w) + (x.toNat * 2 ^ (w - s % w)) % 2 ^ w) ∧
    ∀ q, q < w → (rotr x s).getLsbD q = x.getLsbD ((q + s % w) % w)

/-- R96: it makes no difference whether a rotation amount is reduced modulo `2^w` before it is reduced modulo `w`. -/
def Obligations.RotationAmountReduction : Prop :=
  ∀ (ws : WordSize) (x a b : BitVec ws.bits),
    rotl x (addw a b).toNat = rotl x (a.toNat + b.toNat) ∧
    (a.toNat + b.toNat) % ws.bits = (addw a b).toNat % ws.bits

/-- R97: the rotations undo each other, and a right rotation is a left one by the rest of the width. -/
def Obligations.RotationsAreInverse : Prop :=
  ∀ (w : Nat) (x : BitVec w) (s : Nat), 0 < w →
    rotr (rotl x s) s = x ∧ rotl (rotr x s) s = x ∧ rotr x s = rotl x (w - s % w)

/-- R98: the six constants, odd, and each the odd integer nearest to its defining real number. -/
def Obligations.KeyScheduleConstants : Prop :=
  constP .w16 = (0xB7E1 : BitVec 16) ∧ constQ .w16 = (0x9E37 : BitVec 16) ∧
  constP .w32 = (0xB7E15163 : BitVec 32) ∧ constQ .w32 = (0x9E3779B9 : BitVec 32) ∧
  constP .w64 = (0xB7E151628AED2A6B : BitVec 64) ∧ constQ .w64 = (0x9E3779B97F4A7C15 : BitVec 64) ∧
  ∀ ws : WordSize, Odd (constP ws).toNat ∧ Odd (constQ ws).toNat ∧
    |(Real.exp 1 - 2) * 2 ^ ws.bits - ((constP ws).toNat : ℝ)| < 1 ∧
    |((1 + Real.sqrt 5) / 2 - 1) * 2 ^ ws.bits - ((constQ ws).toNat : ℝ)| < 1

/-- R52: bytes to word and word to bytes undo each other, for all three word sizes, and the first byte is the least
significant. -/
def Obligations.LittleEndianConversions : Prop :=
  ∀ ws : WordSize,
    (∀ v : BitVec ws.bits, leWord ws.bits (wordLE v ws.bytes) 0 ws.bytes = v) ∧
    (∀ X : List Byte, ws.bytes ≤ X.length → wordLE (leWord ws.bits X 0 ws.bytes) ws.bytes = X.take ws.bytes) ∧
    (∀ (X : List Byte) (a : Nat), a + ws.bytes ≤ X.length →
      (leWord ws.bits X a ws.bytes).toNat = ∑ q ∈ Finset.range ws.bytes, (X.getD (a + q) 0#8).toNat * 2 ^ (8 * q))

/-- R54: MemRead and MemWrite: what is written is read back, and every element outside reads as before. -/
def Obligations.MemReadAfterMemWrite : Prop :=
  ∀ (m : Memory Byte) (a n v : Nat),
    memRead (memWrite m a n v) a n = some (v % 2 ^ (8 * n)) ∧
    (∀ q, q < n → (memWrite m a n v).read (a + q) = some (BitVec.ofNat 8 (v / 2 ^ (8 * q)))) ∧
    ∀ b, ¬ (a ≤ b ∧ b < a + n) → (memWrite m a n v).read b = m.read b

/-! ### The KeyExpander, 41_config_key.md -/

/-- R114: Align gives `c` words, the bytes of the key in little-endian order, zeros beyond its end. -/
def Obligations.AlignPacksTheKey : Prop :=
  ∀ (ws : WordSize) (key : List Byte),
    (align ws key).length = max 1 ((key.length + ws.bytes - 1) / ws.bytes) ∧
    (∀ q, q < (align ws key).length → ∃ x, (align ws key)[q]? = some x ∧
      x.toNat = ∑ n ∈ Finset.range ws.bytes, (key.getD (q * ws.bytes + n) 0#8).toNat * 2 ^ (8 * n)) ∧
    align ws [] = [0]

/-- R115: the seeded table in closed form, `S[q] = (P_w + q * Q_w) mod 2^w`, t words of it. -/
def Obligations.SeedClosedForm : Prop :=
  ∀ (ws : WordSize) (r : Nat), (seed ws r).length = 2 * (r + 1) ∧
    ∀ q, q < 2 * (r + 1) → (seed ws r)[q]? = some (constP ws + BitVec.ofNat ws.bits q * constQ ws)

/-- R117: keys that differ only by trailing zero bytes within the same last word give the same L and the same table. -/
def Obligations.ZeroBytesInTheLastKeyWord : Prop :=
  ∀ (ws : WordSize) (r n : Nat) (key : List Byte),
    keyWords ws (key.length + n) = keyWords ws key.length →
    expand ws r (key ++ List.replicate n 0#8) = expand ws r key

/-- R116, R132: the worked examples: the table of the empty key (w = 16, r = 0), and one block under the table of key
`01 02 03` (w = 16, r = 1). -/
def Obligations.WorkedExamples : Prop :=
  ((expand .w16 0 []).S = [0x7865#16, 0x33F4#16] ∧ (expand .w16 0 []).L = [0x37DA#16]) ∧
  ((expand .w16 1 [0x01#8, 0x02#8, 0x03#8]).S = [0x68D4#16, 0xEEFF#16, 0x047C#16, 0xF307#16]) ∧
  encBlock .w16 [0x68D4#16, 0xEEFF#16, 0x047C#16, 0xF307#16] 1 [0x10#8, 0x20#8, 0x30#8, 0x40#8] =
    [0x61#8, 0xD8#8, 0xA4#8, 0xE1#8]

/-! ### The BlockCipher and the StreamCodec -/

/-- R136: DecBlock and EncBlock undo each other, for every table, every round count and every block. -/
def Obligations.BlockCipherIsInvertible : Prop :=
  ∀ (ws : WordSize) (T : List (BitVec ws.bits)) (r : Nat) (X : List Byte), X.length = ws.blockBytes →
    decBlock ws T r (encBlock ws T r X) = X ∧ encBlock ws T r (decBlock ws T r X) = X

/-- R151: StripZeros removes every trailing zero byte and nothing else. -/
def Obligations.StripZerosRemovesTheTail : Prop :=
  ∀ Y : List Byte, (∃ n, Y = stripZeros Y ++ List.replicate n 0#8) ∧
    (stripZeros Y = [] ∨ ∃ x, (stripZeros Y).getLast? = some x ∧ x ≠ 0#8)

/-- R154: the lengths of what Encode and Decode give. -/
def Obligations.CodecLengths : Prop :=
  ∀ (ws : WordSize) (T : List (BitVec ws.bits)) (r : Nat),
    (∀ p : List Byte, (encodeStream ws T r p).length =
      ws.blockBytes * max 1 ((p.length + ws.blockBytes - 1) / ws.blockBytes)) ∧
    (∀ ct : List Byte, ct ≠ [] → ct.length % ws.blockBytes = 0 →
      ct.length - ws.blockBytes ≤ (decodeStream ws T r ct).length ∧ (decodeStream ws T r ct).length ≤ ct.length) ∧
    decodeStream ws T r [] = []

/-- R155: the round trip gives the plaintext with the trailing zero bytes of its last chunk removed, and so is exact if
and only if the plaintext is empty or its last byte is not zero. -/
def Obligations.CodecRoundTrip : Prop :=
  ∀ (ws : WordSize) (T : List (BitVec ws.bits)) (r : Nat) (p : List Byte),
    decodeStream ws T r (encodeStream ws T r p) =
      p.take ((encodeBlocks ws p.length - 1) * ws.blockBytes) ++
        stripZeros (p.drop ((encodeBlocks ws p.length - 1) * ws.blockBytes)) ∧
    (decodeStream ws T r (encodeStream ws T r p) = p ↔ p = [] ∨ p.getLast? ≠ some 0#8)

/-- R157: blocks are independent: a whole number of blocks ahead of a plaintext is encoded as it is alone. -/
def Obligations.BlocksAreIndependent : Prop :=
  ∀ (ws : WordSize) (T : List (BitVec ws.bits)) (r : Nat) (p q : List Byte),
    p ≠ [] → q ≠ [] → p.length % ws.blockBytes = 0 →
    encodeStream ws T r (p ++ q) = encodeStream ws T r p ++ encodeStream ws T r q

/-- R152: `SBEGIN ENC`, a DIN for each byte, `SEND`: the bytes emitted are Encode(p), no fault is raised, and the state is
the starting one in everything but BUF and the scratch registers. -/
def Obligations.EncodeStreamIsEncode : Prop :=
  ∀ (s : State) (ws : WordSize) (T : List (BitVec ws.bits)) (p : List Byte), StateInv s →
    s.MODE = .idle → s.TVALID = true → s.BCNT = 0#5 → s.ERR = .noFault → wordSize? s.W = some ws →
    s.table? ws = some T → ∃ t,
      runCommands (expansion (.encode p)) s = .next t ∧
      t = { s with BUF := t.BUF, OUT := s.OUT ++ encodeStream ws T s.R.toNat p, A := t.A, B := t.B, k := t.k }

/-- R153: `SBEGIN DEC`, a DIN for each byte, `SEND`: for a whole number of blocks the bytes emitted are Decode(ct) and the
state is the starting one in everything but BUF, HOLD and the scratch registers; otherwise SEND raises InputShapeError
after the decryptions of all complete blocks but the last. -/
def Obligations.DecodeStreamIsDecode : Prop :=
  ∀ (s : State) (ws : WordSize) (T : List (BitVec ws.bits)) (ct : List Byte), StateInv s →
    s.MODE = .idle → s.TVALID = true → s.BCNT = 0#5 → s.ERR = .noFault → wordSize? s.W = some ws →
    s.table? ws = some T →
    (ct.length % ws.blockBytes = 0 → ∃ t, runCommands (expansion (.decode ct)) s = .next t ∧
      t = { s with BUF := t.BUF, HOLD := t.HOLD, OUT := s.OUT ++ decodeStream ws T s.R.toNat ct,
                   A := t.A, B := t.B, k := t.k }) ∧
    (ct.length % ws.blockBytes ≠ 0 → ∃ t, runCommands (expansion (.decode ct)) s = .next t ∧
      t.ERR = .inputShapeError ∧ t.ERRCMD = encode .send ∧
      t.OUT = s.OUT ++ decryptBlocks ws T s.R.toNat ct (ct.length / ws.blockBytes - 1))

/-- R206: decode holds back one block: when the DIN that completes block `n` is done, `(n-1)*bb` bytes have been emitted,
the decryptions of the blocks before it. -/
def Obligations.DecodeHoldsBackOneBlock : Prop :=
  ∀ (s : State) (ws : WordSize) (T : List (BitVec ws.bits)) (ct : List Byte) (n : Nat), StateInv s →
    s.MODE = .idle → s.TVALID = true → s.BCNT = 0#5 → s.ERR = .noFault → wordSize? s.W = some ws →
    s.table? ws = some T → 0 < n → ct.length = n * ws.blockBytes → ∃ t,
      runCommands (.sbegin .dec :: ct.map .din) s = .next t ∧ t.ERR = .noFault ∧ t.HVALID = true ∧ t.BCNT = 0#5 ∧
      t.OUT = s.OUT ++ decryptBlocks ws T s.R.toNat ct (n - 1) ∧
      (decryptBlocks ws T s.R.toNat ct (n - 1)).length = (n - 1) * ws.blockBytes

/-! ### Invariants -/

/-- R42, R201: the registers and the CSRs after reset, and what may follow: only NOP, SETCFG, KEYCLR, KEYPUSH, ABORT and
SRST do not fault. Nothing is claimed of the scratch registers (log entry 3); that no element of an array can be read is
the model's form of "unspecified" (log entry 2). -/
def Obligations.ResetLeavesTheEngineUnconfigured : Prop :=
  (State.reset.W = 0#8 ∧ State.reset.R = 0#8 ∧ State.reset.KLEN = 0#8 ∧ State.reset.TVALID = false ∧
    State.reset.MODE = .idle ∧ State.reset.BCNT = 0#5 ∧ State.reset.HVALID = false ∧ State.reset.SANY = false ∧
    State.reset.ERR = .noFault ∧ State.reset.ERRCMD = 0#32 ∧ State.reset.errO = false ∧ State.reset.cfgv = false) ∧
  (∀ n, State.reset.csrRead n = 0#32) ∧
  (∀ i, (i = .expand ∨ (∃ b, i = .din b) ∨ i = .encb ∨ i = .decb ∨ (∃ dir, i = .sbegin dir) ∨ i = .send) →
    exec i State.reset = .next { State.reset with ERR := .sequenceError, ERRCMD := encode i }) ∧
  (∀ i, (i = .nop ∨ (∃ r, i = .setcfg 16#8 r ∨ i = .setcfg 32#8 r ∨ i = .setcfg 64#8 r) ∨ i = .keyclr ∨
      (∃ b, i = .keypush b) ∨ i = .abort ∨ i = .srst) →
    ∃ t, exec i State.reset = .next t ∧ t.ERR = .noFault) ∧
  ∀ a, State.reset.K.read a = none ∧ State.reset.L.read a = none ∧ State.reset.S.read a = none ∧
    State.reset.BUF.read a = none ∧ State.reset.HOLD.read a = none

/-- R42, R40: the state after reset meets both invariants. -/
def Obligations.ResetMeetsTheInvariants : Prop :=
  StateInv State.reset ∧ TableMatchesKey State.reset

/-- R40: every step keeps the invariant, whatever the host does. Its last two fields, the canonical form of the arrays and
their index ranges, are the model's own. -/
def Obligations.StepKeepsTheInvariant : Prop :=
  ∀ s t : State, StateInv s → step s = .next t → StateInv t

/-- R26: while TVALID is set, S holds the expansion of the current key under the current parameters; every step keeps
that. -/
def Obligations.StepKeepsTableMatchesKey : Prop :=
  ∀ s t : State, StateInv s → TableMatchesKey s → step s = .next t → TableMatchesKey t

/-- R211: "every word in every state has a defined effect": from a state that meets the invariant, a step answers a next
state, whatever the host does. So the model's own stops are not reached. -/
def Obligations.StepAnswersANextState : Prop :=
  ∀ s : State, StateInv s → ∃ t, step s = .next t
end

