-- ==== Sys2Proof/Laws/Cipher.lean ====
section
/-! SUPPORT. Sizes of what the cipher's functions work on, and how words stand in their containers. -/

namespace Sys2Proof.Machine

open Sys2Proof

/-! ### The word size -/

theorem wordSize_bits_eq (ws : WordSize) : ws.bits = 8 * ws.bytes := by cases ws <;> rfl

theorem wordSize_blockBytes_eq (ws : WordSize) : ws.blockBytes = 2 * ws.bytes := by cases ws <;> rfl

theorem wordSize_bits_le (ws : WordSize) : ws.bits ≤ 64 := by cases ws <;> decide

theorem wordSize_blockBytes_pos (ws : WordSize) : 0 < ws.blockBytes := by cases ws <;> decide

theorem wordSize_blockBytes_le (ws : WordSize) : ws.blockBytes ≤ 16 := by cases ws <;> decide

/-- What W holds when it names a word size. -/
theorem wordSize?_eq_some {x : BitVec 8} {ws : WordSize} (h : wordSize? x = some ws) : x.toNat = ws.bits := by
  unfold wordSize? at h
  split at h
  · cases h; subst_vars; rfl
  · split at h
    · cases h; subst_vars; rfl
    · split at h
      · cases h; subst_vars; rfl
      · cases h

theorem wordSize?_eq_none {x : BitVec 8} : wordSize? x = none ↔ ¬ (x = 16#8 ∨ x = 32#8 ∨ x = 64#8) := by
  unfold wordSize?
  split
  · simp_all
  · split
    · simp_all
    · split <;> simp_all

/-! ### Containers -/

@[simp] theorem cellWord_wordCell {ws : WordSize} (x : BitVec ws.bits) : cellWord ws.bits (wordCell x) = x := by
  apply BitVec.eq_of_toNat_eq
  have h1 := x.isLt
  have h2 : 2 ^ ws.bits ≤ 2 ^ 64 := Nat.pow_le_pow_right (by decide) (wordSize_bits_le ws)
  simp only [cellWord, wordCell, BitVec.toNat_setWidth]
  rw [Nat.mod_eq_of_lt (a := x.toNat) (by omega), Nat.mod_eq_of_lt h1]

/-! ### Lengths -/

@[simp] theorem wordLE_length {w : Nat} (v : BitVec w) (u : Nat) : (wordLE v u).length = u := by
  simp [wordLE]

@[simp] theorem blockBytesOf_length (ws : WordSize) (b : BitVec ws.bits × BitVec ws.bits) :
    (blockBytesOf ws b).length = ws.blockBytes := by
  simp [blockBytesOf, wordSize_blockBytes_eq]; omega

@[simp] theorem encBlock_length (ws : WordSize) (T : List (BitVec ws.bits)) (r : Nat) (X : List Byte) :
    (encBlock ws T r X).length = ws.blockBytes := blockBytesOf_length ..

@[simp] theorem decBlock_length (ws : WordSize) (T : List (BitVec ws.bits)) (r : Nat) (X : List Byte) :
    (decBlock ws T r X).length = ws.blockBytes := blockBytesOf_length ..

@[simp] theorem align_length (ws : WordSize) (key : List Byte) :
    (align ws key).length = keyWords ws key.length := by simp [align]

@[simp] theorem seedFrom_length {w : Nat} (step : BitVec w) (n : Nat) (x : BitVec w) :
    (seedFrom step n x).length = n := by
  induction n generalizing x with
  | zero => rfl
  | succ n ih => simp [seedFrom, ih]

@[simp] theorem seed_length (ws : WordSize) (r : Nat) : (seed ws r).length = tableWords r := by simp [seed]

theorem mixIterate_lengths {w : Nat} (c t n : Nat) (m : MixState w) :
    (mixIterate c t n m).L.length = m.L.length ∧ (mixIterate c t n m).S.length = m.S.length := by
  induction n generalizing m with
  | zero => exact ⟨rfl, rfl⟩
  | succ n ih => simpa [mixIterate, mixStep] using ih (mixStep c t m)

@[simp] theorem expand_S_length (ws : WordSize) (r : Nat) (key : List Byte) :
    (expand ws r key).S.length = tableWords r := by
  simp [expand, mix, (mixIterate_lengths ..).2]

@[simp] theorem expand_L_length (ws : WordSize) (r : Nat) (key : List Byte) :
    (expand ws r key).L.length = keyWords ws key.length := by
  simp [expand, mix, (mixIterate_lengths ..).1]

/-- A key of at most 255 bytes fits L. -/
theorem keyWords_le (ws : WordSize) {b : Nat} (h : b ≤ 255) : keyWords ws b ≤ Config.keyWordCells := by
  cases ws <;> simp only [keyWords, WordSize.bytes, WordSize.bits, Config.keyWordCells] <;> omega

/-- A table of at most 255 rounds fits S. -/
theorem tableWords_le {r : Nat} (h : r ≤ 255) : tableWords r ≤ Config.tableCells := by
  simp only [tableWords, Config.tableCells]; omega

end Sys2Proof.Machine
end

