-- ==== Sys2Proof/Laws/Encoding.lean ====
section
/-! SUPPORT. Fields and formats of a command word as numbers. -/

namespace Sys2Proof

theorem toNat_append_add {n m : Nat} (x : BitVec n) (y : BitVec m) :
    (x ++ y).toNat = x.toNat * 2 ^ m + y.toNat := by
  rw [BitVec.toNat_append, ← Nat.shiftLeft_add_eq_or_of_lt y.isLt, Nat.shiftLeft_eq]

theorem field_toNat (cmd : CmdWord) (a n : Nat) : (cmd.extractLsb' a n).toNat = cmd.toNat / 2 ^ a % 2 ^ n := by
  simp [BitVec.extractLsb'_toNat, Nat.shiftRight_eq_div_pow]

theorem wordZ_toNat (opc : BitVec 8) : (wordZ opc).toNat = opc.toNat * 2 ^ 24 := by
  simp only [wordZ, toNat_append_add]; simp

theorem wordB_toNat (opc b : BitVec 8) : (wordB opc b).toNat = opc.toNat * 2 ^ 24 + b.toNat := by
  simp only [wordB, toNat_append_add]; simp; omega

theorem wordC_toNat (opc r w : BitVec 8) : (wordC opc r w).toNat = opc.toNat * 2 ^ 24 + r.toNat * 2 ^ 8 + w.toNat := by
  simp only [wordC, toNat_append_add]; simp; omega

theorem wordM_toNat (opc : BitVec 8) (d : BitVec 1) : (wordM opc d).toNat = opc.toNat * 2 ^ 24 + d.toNat := by
  simp only [wordM, toNat_append_add]; simp; omega

end Sys2Proof
end

