-- ==== Sys2Proof/Laws/Memory.lean ====
section
/-! SUPPORT. Laws of the internal arrays: a read after a write, the canonical form, runs of elements. -/

namespace Sys2Proof.Machine.Memory

variable {α : Type}

/-! ### One element -/

@[simp] theorem read_nil (a : Nat) : Memory.read ([] : Memory α) a = none := rfl

theorem read_cons (b : Nat) (x : α) (m : Memory α) (a : Nat) :
    Memory.read ((b, x) :: m) a = if a = b then some x else Memory.read m a := rfl

theorem read_write (m : Memory α) (a a' : Nat) (v : α) :
    (m.write a v).read a' = if a' = a then some v else m.read a' := by
  induction m with
  | nil => simp [Memory.write, read_cons]
  | cons c m ih =>
    obtain ⟨b, x⟩ := c
    rw [Memory.write]
    split
    · simp [read_cons]
    · split
      · subst_vars; simp only [read_cons]; split <;> rfl
      · simp only [read_cons, ih]
        split
        · split <;> [omega; rfl]
        · rfl

@[simp] theorem read_write_same (m : Memory α) (a : Nat) (v : α) : (m.write a v).read a = some v := by
  simp [read_write]

theorem read_write_other (m : Memory α) {a a' : Nat} (v : α) (h : a' ≠ a) : (m.write a v).read a' = m.read a' := by
  simp [read_write, h]

/-! ### The canonical form -/

@[simp] theorem wf_nil : Memory.wf ([] : Memory α) = true := rfl

theorem wf_cons {b : Nat} {x : α} {m : Memory α} :
    Memory.wf ((b, x) :: m) = true ↔ (∀ c ∈ m.head?, b < c.1) ∧ Memory.wf m = true := by
  cases m with
  | nil => simp [Memory.wf]
  | cons c m => obtain ⟨d, y⟩ := c; simp [Memory.wf]

theorem head_write (m : Memory α) (a : Nat) (v : α) {b : Nat} (hb : b < a) (h : ∀ c ∈ m.head?, b < c.1) :
    ∀ c ∈ (m.write a v).head?, b < c.1 := by
  cases m with
  | nil => simpa [Memory.write] using hb
  | cons c m =>
    obtain ⟨d, y⟩ := c
    rw [Memory.write]
    split
    · simpa using hb
    · split
      · simpa using hb
      · simpa using h

theorem wf_write {m : Memory α} (a : Nat) (v : α) (h : m.wf = true) : (m.write a v).wf = true := by
  induction m with
  | nil => rfl
  | cons c m ih =>
    obtain ⟨b, x⟩ := c
    have hc := wf_cons.1 h
    rw [Memory.write]
    split
    · exact wf_cons.2 ⟨by simpa using ‹a < b›, h⟩
    · split
      · subst_vars; exact wf_cons.2 hc
      · exact wf_cons.2 ⟨head_write m a v (by omega) hc.1, ih hc.2⟩

theorem wf_writeList {m : Memory α} (a : Nat) (vs : List α) (h : m.wf = true) : (m.writeList a vs).wf = true := by
  induction vs generalizing m a with
  | nil => exact h
  | cons v vs ih => exact ih (a + 1) (wf_write a v h)

/-! ### The indices written -/

theorem below_nil (n : Nat) : Memory.below ([] : Memory α) n := by simp

theorem mem_write {m : Memory α} {a : Nat} {v : α} {c : Nat × α} (h : c ∈ m.write a v) : c = (a, v) ∨ c ∈ m := by
  induction m with
  | nil => left; simpa [Memory.write] using h
  | cons d m ih =>
    obtain ⟨b, x⟩ := d
    rw [Memory.write] at h
    split at h
    · exact List.mem_cons.1 h
    · split at h
      · rcases List.mem_cons.1 h with h | h
        · exact .inl h
        · exact .inr (List.mem_cons_of_mem _ h)
      · rcases List.mem_cons.1 h with h | h
        · subst h; exact .inr (List.mem_cons_self ..)
        · exact (ih h).imp_right (List.mem_cons_of_mem _)

theorem below_write {m : Memory α} {n a : Nat} (v : α) (ha : a < n) (h : m.below n) : (m.write a v).below n := by
  intro c hc
  rcases mem_write hc with rfl | hc
  · exact ha
  · exact h c hc

theorem below_writeList {m : Memory α} {n a : Nat} (vs : List α) (ha : a + vs.length ≤ n) (h : m.below n) :
    (m.writeList a vs).below n := by
  induction vs generalizing m a with
  | nil => exact h
  | cons v vs ih =>
    simp only [List.length_cons] at ha
    exact ih (a := a + 1) (by omega) (below_write v (by omega) h)

/-! ### Runs of elements -/

/-- What a run of reads answers: exactly the elements, all of them written. -/
theorem readList_eq_some {m : Memory α} {a n : Nat} {vs : List α} :
    m.readList a n = some vs ↔ vs.length = n ∧ ∀ q, q < n → m.read (a + q) = vs[q]? := by
  induction n generalizing a vs with
  | zero =>
    simp only [Memory.readList, Option.some.injEq, Nat.not_lt_zero, false_implies, implies_true, and_true]
    exact ⟨fun h => h ▸ rfl, fun h => (List.length_eq_zero_iff.1 h).symm⟩
  | succ n ih =>
    rw [Memory.readList]
    constructor
    · intro h
      split at h
      · rename_i v us hv hus
        obtain ⟨hl, hr⟩ := ih.1 hus
        cases h
        refine ⟨by simp [hl], fun q hq => ?_⟩
        cases q with
        | zero => simpa using hv
        | succ q =>
          have := hr q (by omega)
          simpa [Nat.add_assoc, Nat.add_comm 1] using this
      · cases h
    · rintro ⟨hl, hr⟩
      cases vs with
      | nil => simp at hl
      | cons v us =>
        have h0 : m.read a = some v := by simpa using hr 0 (by omega)
        have h1 : m.readList (a + 1) n = some us := ih.2 ⟨by simpa using hl, fun q hq => by
          have := hr (q + 1) (by omega)
          simpa [Nat.add_assoc, Nat.add_comm 1] using this⟩
        simp [h0, h1]

theorem readList_length {m : Memory α} {a n : Nat} {vs : List α} (h : m.readList a n = some vs) : vs.length = n :=
  (readList_eq_some.1 h).1

/-- A run of reads depends on nothing but the elements read. -/
theorem readList_congr {m m' : Memory α} {a n : Nat} (h : ∀ q, q < n → m.read (a + q) = m'.read (a + q)) :
    m.readList a n = m'.readList a n := by
  induction n generalizing a with
  | zero => rfl
  | succ n ih =>
    have h0 : m.read a = m'.read a := by simpa using h 0 (by omega)
    have h1 := ih (a := a + 1) fun q hq => by
      have := h (q + 1) (by omega)
      simpa [Nat.add_assoc, Nat.add_comm 1] using this
    simp [Memory.readList, h0, h1]

theorem read_writeList (m : Memory α) (a : Nat) (vs : List α) (a' : Nat) :
    (m.writeList a vs).read a' = if a ≤ a' ∧ a' < a + vs.length then vs[a' - a]? else m.read a' := by
  induction vs generalizing m a with
  | nil => simp [Memory.writeList]
  | cons v vs ih =>
    rw [Memory.writeList, ih, read_write]
    simp only [List.length_cons]
    by_cases h : a' = a
    · subst h; simp
    · by_cases h2 : a ≤ a' ∧ a' < a + (vs.length + 1)
      · have h3 : a + 1 ≤ a' ∧ a' < a + 1 + vs.length := by omega
        rw [if_pos h3, if_pos h2, show a' - a = (a' - (a + 1)) + 1 by omega, List.getElem?_cons_succ]
      · have h3 : ¬ (a + 1 ≤ a' ∧ a' < a + 1 + vs.length) := by omega
        rw [if_neg h3, if_neg h2, if_neg h]

theorem read_writeList_other (m : Memory α) {a a' : Nat} (vs : List α) (h : ¬ (a ≤ a' ∧ a' < a + vs.length)) :
    (m.writeList a vs).read a' = m.read a' := by
  rw [read_writeList, if_neg h]

/-- What was written is read back. -/
theorem readList_writeList (m : Memory α) (a : Nat) (vs : List α) :
    (m.writeList a vs).readList a vs.length = some vs := by
  refine readList_eq_some.2 ⟨rfl, fun q hq => ?_⟩
  rw [read_writeList, if_pos (by omega)]
  congr 1; omega

/-- One more element read. -/
theorem readList_succ {m : Memory α} {a n : Nat} {vs : List α} {v : α} (h : m.readList a n = some vs)
    (hv : m.read (a + n) = some v) : m.readList a (n + 1) = some (vs ++ [v]) := by
  obtain ⟨hl, hr⟩ := readList_eq_some.1 h
  refine readList_eq_some.2 ⟨by simp [hl], fun q hq => ?_⟩
  by_cases hqn : q < n
  · rw [hr q hqn, List.getElem?_append_left (by omega)]
  · obtain rfl : q = n := by omega
    rw [hv, ← hl]; simp

/-- A byte appended at the end of a written run. -/
theorem readList_write_end {m : Memory α} {n : Nat} {vs : List α} (v : α) (h : m.readList 0 n = some vs) :
    (m.write n v).readList 0 (n + 1) = some (vs ++ [v]) := by
  refine readList_succ ?_ (by simp)
  rw [← h]
  exact readList_congr fun q hq => read_write_other m v (by omega)

/-- A run of bytes appended at the end of a written run. -/
theorem readList_writeList_end {m : Memory α} {n : Nat} {vs : List α} (us : List α) (h : m.readList 0 n = some vs) :
    (m.writeList n us).readList 0 (n + us.length) = some (vs ++ us) := by
  obtain ⟨hl, hr⟩ := readList_eq_some.1 h
  refine readList_eq_some.2 ⟨by simp [hl], fun q hq => ?_⟩
  rw [read_writeList]
  by_cases hq' : q < n
  · rw [if_neg (by omega), hr q hq', List.getElem?_append_left (by omega)]
  · rw [if_pos (by omega), List.getElem?_append_right (by omega)]
    congr 1; omega

theorem written_iff {m : Memory α} {n : Nat} : m.written n ↔ ∃ vs, m.readList 0 n = some vs := by
  simp [Memory.written, Option.isSome_iff_exists]

end Sys2Proof.Machine.Memory
end

