-- ==== Sys2Proof/Laws/State.lean ====
section
/-! SUPPORT. One lemma per field per shared update of State, each true by rfl: later proofs cite these and unfold no record
update. What an update gives the scratch registers (A, B, i, j, k) has no lemma, since no rule reads it. -/

namespace Sys2Proof.Machine

variable (s : State)

/-! ### State.emit -/

@[simp] theorem State.emit_W (X : List Byte) : (s.emit X).W = s.W := rfl
@[simp] theorem State.emit_R (X : List Byte) : (s.emit X).R = s.R := rfl
@[simp] theorem State.emit_K (X : List Byte) : (s.emit X).K = s.K := rfl
@[simp] theorem State.emit_KLEN (X : List Byte) : (s.emit X).KLEN = s.KLEN := rfl
@[simp] theorem State.emit_L (X : List Byte) : (s.emit X).L = s.L := rfl
@[simp] theorem State.emit_S (X : List Byte) : (s.emit X).S = s.S := rfl
@[simp] theorem State.emit_TVALID (X : List Byte) : (s.emit X).TVALID = s.TVALID := rfl
@[simp] theorem State.emit_BUF (X : List Byte) : (s.emit X).BUF = s.BUF := rfl
@[simp] theorem State.emit_BCNT (X : List Byte) : (s.emit X).BCNT = s.BCNT := rfl
@[simp] theorem State.emit_HOLD (X : List Byte) : (s.emit X).HOLD = s.HOLD := rfl
@[simp] theorem State.emit_HVALID (X : List Byte) : (s.emit X).HVALID = s.HVALID := rfl
@[simp] theorem State.emit_MODE (X : List Byte) : (s.emit X).MODE = s.MODE := rfl
@[simp] theorem State.emit_SANY (X : List Byte) : (s.emit X).SANY = s.SANY := rfl
@[simp] theorem State.emit_ERR (X : List Byte) : (s.emit X).ERR = s.ERR := rfl
@[simp] theorem State.emit_ERRCMD (X : List Byte) : (s.emit X).ERRCMD = s.ERRCMD := rfl
@[simp] theorem State.emit_A (X : List Byte) : (s.emit X).A = s.A := rfl
@[simp] theorem State.emit_B (X : List Byte) : (s.emit X).B = s.B := rfl
@[simp] theorem State.emit_i (X : List Byte) : (s.emit X).i = s.i := rfl
@[simp] theorem State.emit_j (X : List Byte) : (s.emit X).j = s.j := rfl
@[simp] theorem State.emit_k (X : List Byte) : (s.emit X).k = s.k := rfl
@[simp] theorem State.emit_OUT (X : List Byte) : (s.emit X).OUT = s.OUT ++ X := rfl
@[simp] theorem State.emit_CSROUT (X : List Byte) : (s.emit X).CSROUT = s.CSROUT := rfl
@[simp] theorem State.emit_pending (X : List Byte) : (s.emit X).pending = s.pending := rfl
@[simp] theorem State.emit_freeCount (X : List Byte) : (s.emit X).freeCount = s.freeCount := rfl

/-! ### State.latchFault -/

@[simp] theorem State.latchFault_W (f : ErrCode) (cmd : CmdWord) : (s.latchFault f cmd).W = s.W := rfl
@[simp] theorem State.latchFault_R (f : ErrCode) (cmd : CmdWord) : (s.latchFault f cmd).R = s.R := rfl
@[simp] theorem State.latchFault_K (f : ErrCode) (cmd : CmdWord) : (s.latchFault f cmd).K = s.K := rfl
@[simp] theorem State.latchFault_KLEN (f : ErrCode) (cmd : CmdWord) : (s.latchFault f cmd).KLEN = s.KLEN := rfl
@[simp] theorem State.latchFault_L (f : ErrCode) (cmd : CmdWord) : (s.latchFault f cmd).L = s.L := rfl
@[simp] theorem State.latchFault_S (f : ErrCode) (cmd : CmdWord) : (s.latchFault f cmd).S = s.S := rfl
@[simp] theorem State.latchFault_TVALID (f : ErrCode) (cmd : CmdWord) : (s.latchFault f cmd).TVALID = s.TVALID := rfl
@[simp] theorem State.latchFault_BUF (f : ErrCode) (cmd : CmdWord) : (s.latchFault f cmd).BUF = s.BUF := rfl
@[simp] theorem State.latchFault_BCNT (f : ErrCode) (cmd : CmdWord) : (s.latchFault f cmd).BCNT = s.BCNT := rfl
@[simp] theorem State.latchFault_HOLD (f : ErrCode) (cmd : CmdWord) : (s.latchFault f cmd).HOLD = s.HOLD := rfl
@[simp] theorem State.latchFault_HVALID (f : ErrCode) (cmd : CmdWord) : (s.latchFault f cmd).HVALID = s.HVALID := rfl
@[simp] theorem State.latchFault_MODE (f : ErrCode) (cmd : CmdWord) : (s.latchFault f cmd).MODE = s.MODE := rfl
@[simp] theorem State.latchFault_SANY (f : ErrCode) (cmd : CmdWord) : (s.latchFault f cmd).SANY = s.SANY := rfl
@[simp] theorem State.latchFault_ERR (f : ErrCode) (cmd : CmdWord) : (s.latchFault f cmd).ERR = f := rfl
@[simp] theorem State.latchFault_ERRCMD (f : ErrCode) (cmd : CmdWord) : (s.latchFault f cmd).ERRCMD = cmd := rfl
@[simp] theorem State.latchFault_A (f : ErrCode) (cmd : CmdWord) : (s.latchFault f cmd).A = s.A := rfl
@[simp] theorem State.latchFault_B (f : ErrCode) (cmd : CmdWord) : (s.latchFault f cmd).B = s.B := rfl
@[simp] theorem State.latchFault_i (f : ErrCode) (cmd : CmdWord) : (s.latchFault f cmd).i = s.i := rfl
@[simp] theorem State.latchFault_j (f : ErrCode) (cmd : CmdWord) : (s.latchFault f cmd).j = s.j := rfl
@[simp] theorem State.latchFault_k (f : ErrCode) (cmd : CmdWord) : (s.latchFault f cmd).k = s.k := rfl
@[simp] theorem State.latchFault_OUT (f : ErrCode) (cmd : CmdWord) : (s.latchFault f cmd).OUT = s.OUT := rfl
@[simp] theorem State.latchFault_CSROUT (f : ErrCode) (cmd : CmdWord) : (s.latchFault f cmd).CSROUT = s.CSROUT := rfl
@[simp] theorem State.latchFault_pending (f : ErrCode) (cmd : CmdWord) : (s.latchFault f cmd).pending = s.pending := rfl
@[simp] theorem State.latchFault_freeCount (f : ErrCode) (cmd : CmdWord) : (s.latchFault f cmd).freeCount = s.freeCount := rfl

/-! ### State.clearFault -/

@[simp] theorem State.clearFault_W : (s.clearFault).W = s.W := rfl
@[simp] theorem State.clearFault_R : (s.clearFault).R = s.R := rfl
@[simp] theorem State.clearFault_K : (s.clearFault).K = s.K := rfl
@[simp] theorem State.clearFault_KLEN : (s.clearFault).KLEN = s.KLEN := rfl
@[simp] theorem State.clearFault_L : (s.clearFault).L = s.L := rfl
@[simp] theorem State.clearFault_S : (s.clearFault).S = s.S := rfl
@[simp] theorem State.clearFault_TVALID : (s.clearFault).TVALID = s.TVALID := rfl
@[simp] theorem State.clearFault_BUF : (s.clearFault).BUF = s.BUF := rfl
@[simp] theorem State.clearFault_BCNT : (s.clearFault).BCNT = s.BCNT := rfl
@[simp] theorem State.clearFault_HOLD : (s.clearFault).HOLD = s.HOLD := rfl
@[simp] theorem State.clearFault_HVALID : (s.clearFault).HVALID = s.HVALID := rfl
@[simp] theorem State.clearFault_MODE : (s.clearFault).MODE = s.MODE := rfl
@[simp] theorem State.clearFault_SANY : (s.clearFault).SANY = s.SANY := rfl
@[simp] theorem State.clearFault_ERR : (s.clearFault).ERR = .noFault := rfl
@[simp] theorem State.clearFault_ERRCMD : (s.clearFault).ERRCMD = 0#32 := rfl
@[simp] theorem State.clearFault_A : (s.clearFault).A = s.A := rfl
@[simp] theorem State.clearFault_B : (s.clearFault).B = s.B := rfl
@[simp] theorem State.clearFault_i : (s.clearFault).i = s.i := rfl
@[simp] theorem State.clearFault_j : (s.clearFault).j = s.j := rfl
@[simp] theorem State.clearFault_k : (s.clearFault).k = s.k := rfl
@[simp] theorem State.clearFault_OUT : (s.clearFault).OUT = s.OUT := rfl
@[simp] theorem State.clearFault_CSROUT : (s.clearFault).CSROUT = s.CSROUT := rfl
@[simp] theorem State.clearFault_pending : (s.clearFault).pending = s.pending := rfl
@[simp] theorem State.clearFault_freeCount : (s.clearFault).freeCount = s.freeCount := rfl

/-! ### State.clearFramer -/

@[simp] theorem State.clearFramer_W : (s.clearFramer).W = s.W := rfl
@[simp] theorem State.clearFramer_R : (s.clearFramer).R = s.R := rfl
@[simp] theorem State.clearFramer_K : (s.clearFramer).K = s.K := rfl
@[simp] theorem State.clearFramer_KLEN : (s.clearFramer).KLEN = s.KLEN := rfl
@[simp] theorem State.clearFramer_L : (s.clearFramer).L = s.L := rfl
@[simp] theorem State.clearFramer_S : (s.clearFramer).S = s.S := rfl
@[simp] theorem State.clearFramer_TVALID : (s.clearFramer).TVALID = s.TVALID := rfl
@[simp] theorem State.clearFramer_BUF : (s.clearFramer).BUF = s.BUF := rfl
@[simp] theorem State.clearFramer_BCNT : (s.clearFramer).BCNT = 0#5 := rfl
@[simp] theorem State.clearFramer_HOLD : (s.clearFramer).HOLD = s.HOLD := rfl
@[simp] theorem State.clearFramer_HVALID : (s.clearFramer).HVALID = false := rfl
@[simp] theorem State.clearFramer_MODE : (s.clearFramer).MODE = .idle := rfl
@[simp] theorem State.clearFramer_SANY : (s.clearFramer).SANY = false := rfl
@[simp] theorem State.clearFramer_ERR : (s.clearFramer).ERR = s.ERR := rfl
@[simp] theorem State.clearFramer_ERRCMD : (s.clearFramer).ERRCMD = s.ERRCMD := rfl
@[simp] theorem State.clearFramer_A : (s.clearFramer).A = s.A := rfl
@[simp] theorem State.clearFramer_B : (s.clearFramer).B = s.B := rfl
@[simp] theorem State.clearFramer_i : (s.clearFramer).i = s.i := rfl
@[simp] theorem State.clearFramer_j : (s.clearFramer).j = s.j := rfl
@[simp] theorem State.clearFramer_k : (s.clearFramer).k = s.k := rfl
@[simp] theorem State.clearFramer_OUT : (s.clearFramer).OUT = s.OUT := rfl
@[simp] theorem State.clearFramer_CSROUT : (s.clearFramer).CSROUT = s.CSROUT := rfl
@[simp] theorem State.clearFramer_pending : (s.clearFramer).pending = s.pending := rfl
@[simp] theorem State.clearFramer_freeCount : (s.clearFramer).freeCount = s.freeCount := rfl

/-! ### State.padBuf -/

@[simp] theorem State.padBuf_W (ws : WordSize) : (s.padBuf ws).W = s.W := rfl
@[simp] theorem State.padBuf_R (ws : WordSize) : (s.padBuf ws).R = s.R := rfl
@[simp] theorem State.padBuf_K (ws : WordSize) : (s.padBuf ws).K = s.K := rfl
@[simp] theorem State.padBuf_KLEN (ws : WordSize) : (s.padBuf ws).KLEN = s.KLEN := rfl
@[simp] theorem State.padBuf_L (ws : WordSize) : (s.padBuf ws).L = s.L := rfl
@[simp] theorem State.padBuf_S (ws : WordSize) : (s.padBuf ws).S = s.S := rfl
@[simp] theorem State.padBuf_TVALID (ws : WordSize) : (s.padBuf ws).TVALID = s.TVALID := rfl
@[simp] theorem State.padBuf_BUF (ws : WordSize) : (s.padBuf ws).BUF = s.BUF.writeList s.BCNT.toNat (List.replicate (ws.blockBytes - s.BCNT.toNat) 0#8) := rfl
@[simp] theorem State.padBuf_BCNT (ws : WordSize) : (s.padBuf ws).BCNT = s.BCNT := rfl
@[simp] theorem State.padBuf_HOLD (ws : WordSize) : (s.padBuf ws).HOLD = s.HOLD := rfl
@[simp] theorem State.padBuf_HVALID (ws : WordSize) : (s.padBuf ws).HVALID = s.HVALID := rfl
@[simp] theorem State.padBuf_MODE (ws : WordSize) : (s.padBuf ws).MODE = s.MODE := rfl
@[simp] theorem State.padBuf_SANY (ws : WordSize) : (s.padBuf ws).SANY = s.SANY := rfl
@[simp] theorem State.padBuf_ERR (ws : WordSize) : (s.padBuf ws).ERR = s.ERR := rfl
@[simp] theorem State.padBuf_ERRCMD (ws : WordSize) : (s.padBuf ws).ERRCMD = s.ERRCMD := rfl
@[simp] theorem State.padBuf_A (ws : WordSize) : (s.padBuf ws).A = s.A := rfl
@[simp] theorem State.padBuf_B (ws : WordSize) : (s.padBuf ws).B = s.B := rfl
@[simp] theorem State.padBuf_i (ws : WordSize) : (s.padBuf ws).i = s.i := rfl
@[simp] theorem State.padBuf_j (ws : WordSize) : (s.padBuf ws).j = s.j := rfl
@[simp] theorem State.padBuf_k (ws : WordSize) : (s.padBuf ws).k = s.k := rfl
@[simp] theorem State.padBuf_OUT (ws : WordSize) : (s.padBuf ws).OUT = s.OUT := rfl
@[simp] theorem State.padBuf_CSROUT (ws : WordSize) : (s.padBuf ws).CSROUT = s.CSROUT := rfl
@[simp] theorem State.padBuf_pending (ws : WordSize) : (s.padBuf ws).pending = s.pending := rfl
@[simp] theorem State.padBuf_freeCount (ws : WordSize) : (s.padBuf ws).freeCount = s.freeCount := rfl

/-! ### State.observeCsr -/

@[simp] theorem State.observeCsr_W (n : BitVec 2) : (s.observeCsr n).W = s.W := rfl
@[simp] theorem State.observeCsr_R (n : BitVec 2) : (s.observeCsr n).R = s.R := rfl
@[simp] theorem State.observeCsr_K (n : BitVec 2) : (s.observeCsr n).K = s.K := rfl
@[simp] theorem State.observeCsr_KLEN (n : BitVec 2) : (s.observeCsr n).KLEN = s.KLEN := rfl
@[simp] theorem State.observeCsr_L (n : BitVec 2) : (s.observeCsr n).L = s.L := rfl
@[simp] theorem State.observeCsr_S (n : BitVec 2) : (s.observeCsr n).S = s.S := rfl
@[simp] theorem State.observeCsr_TVALID (n : BitVec 2) : (s.observeCsr n).TVALID = s.TVALID := rfl
@[simp] theorem State.observeCsr_BUF (n : BitVec 2) : (s.observeCsr n).BUF = s.BUF := rfl
@[simp] theorem State.observeCsr_BCNT (n : BitVec 2) : (s.observeCsr n).BCNT = s.BCNT := rfl
@[simp] theorem State.observeCsr_HOLD (n : BitVec 2) : (s.observeCsr n).HOLD = s.HOLD := rfl
@[simp] theorem State.observeCsr_HVALID (n : BitVec 2) : (s.observeCsr n).HVALID = s.HVALID := rfl
@[simp] theorem State.observeCsr_MODE (n : BitVec 2) : (s.observeCsr n).MODE = s.MODE := rfl
@[simp] theorem State.observeCsr_SANY (n : BitVec 2) : (s.observeCsr n).SANY = s.SANY := rfl
@[simp] theorem State.observeCsr_ERR (n : BitVec 2) : (s.observeCsr n).ERR = s.ERR := rfl
@[simp] theorem State.observeCsr_ERRCMD (n : BitVec 2) : (s.observeCsr n).ERRCMD = s.ERRCMD := rfl
@[simp] theorem State.observeCsr_A (n : BitVec 2) : (s.observeCsr n).A = s.A := rfl
@[simp] theorem State.observeCsr_B (n : BitVec 2) : (s.observeCsr n).B = s.B := rfl
@[simp] theorem State.observeCsr_i (n : BitVec 2) : (s.observeCsr n).i = s.i := rfl
@[simp] theorem State.observeCsr_j (n : BitVec 2) : (s.observeCsr n).j = s.j := rfl
@[simp] theorem State.observeCsr_k (n : BitVec 2) : (s.observeCsr n).k = s.k := rfl
@[simp] theorem State.observeCsr_OUT (n : BitVec 2) : (s.observeCsr n).OUT = s.OUT := rfl
@[simp] theorem State.observeCsr_CSROUT (n : BitVec 2) : (s.observeCsr n).CSROUT = s.CSROUT ++ [(n, s.csrRead n)] := rfl
@[simp] theorem State.observeCsr_pending (n : BitVec 2) : (s.observeCsr n).pending = s.pending := rfl
@[simp] theorem State.observeCsr_freeCount (n : BitVec 2) : (s.observeCsr n).freeCount = s.freeCount := rfl

/-! ### State.installTable -/

@[simp] theorem State.installTable_W (ws : WordSize) (m : MixState ws.bits) : (s.installTable ws m).W = s.W := rfl
@[simp] theorem State.installTable_R (ws : WordSize) (m : MixState ws.bits) : (s.installTable ws m).R = s.R := rfl
@[simp] theorem State.installTable_K (ws : WordSize) (m : MixState ws.bits) : (s.installTable ws m).K = s.K := rfl
@[simp] theorem State.installTable_KLEN (ws : WordSize) (m : MixState ws.bits) : (s.installTable ws m).KLEN = s.KLEN := rfl
@[simp] theorem State.installTable_L (ws : WordSize) (m : MixState ws.bits) : (s.installTable ws m).L = s.L.writeList 0 (m.L.map wordCell) := rfl
@[simp] theorem State.installTable_S (ws : WordSize) (m : MixState ws.bits) : (s.installTable ws m).S = s.S.writeList 0 (m.S.map wordCell) := rfl
@[simp] theorem State.installTable_TVALID (ws : WordSize) (m : MixState ws.bits) : (s.installTable ws m).TVALID = true := rfl
@[simp] theorem State.installTable_BUF (ws : WordSize) (m : MixState ws.bits) : (s.installTable ws m).BUF = s.BUF := rfl
@[simp] theorem State.installTable_BCNT (ws : WordSize) (m : MixState ws.bits) : (s.installTable ws m).BCNT = s.BCNT := rfl
@[simp] theorem State.installTable_HOLD (ws : WordSize) (m : MixState ws.bits) : (s.installTable ws m).HOLD = s.HOLD := rfl
@[simp] theorem State.installTable_HVALID (ws : WordSize) (m : MixState ws.bits) : (s.installTable ws m).HVALID = s.HVALID := rfl
@[simp] theorem State.installTable_MODE (ws : WordSize) (m : MixState ws.bits) : (s.installTable ws m).MODE = s.MODE := rfl
@[simp] theorem State.installTable_SANY (ws : WordSize) (m : MixState ws.bits) : (s.installTable ws m).SANY = s.SANY := rfl
@[simp] theorem State.installTable_ERR (ws : WordSize) (m : MixState ws.bits) : (s.installTable ws m).ERR = s.ERR := rfl
@[simp] theorem State.installTable_ERRCMD (ws : WordSize) (m : MixState ws.bits) : (s.installTable ws m).ERRCMD = s.ERRCMD := rfl
@[simp] theorem State.installTable_OUT (ws : WordSize) (m : MixState ws.bits) : (s.installTable ws m).OUT = s.OUT := rfl
@[simp] theorem State.installTable_CSROUT (ws : WordSize) (m : MixState ws.bits) : (s.installTable ws m).CSROUT = s.CSROUT := rfl
@[simp] theorem State.installTable_pending (ws : WordSize) (m : MixState ws.bits) : (s.installTable ws m).pending = s.pending := rfl
@[simp] theorem State.installTable_freeCount (ws : WordSize) (m : MixState ws.bits) : (s.installTable ws m).freeCount = s.freeCount := rfl

/-! ### State.resetEngine -/

@[simp] theorem State.resetEngine_W : (s.resetEngine).W = 0#8 := rfl
@[simp] theorem State.resetEngine_R : (s.resetEngine).R = 0#8 := rfl
@[simp] theorem State.resetEngine_K : (s.resetEngine).K = [] := rfl
@[simp] theorem State.resetEngine_KLEN : (s.resetEngine).KLEN = 0#8 := rfl
@[simp] theorem State.resetEngine_L : (s.resetEngine).L = [] := rfl
@[simp] theorem State.resetEngine_S : (s.resetEngine).S = [] := rfl
@[simp] theorem State.resetEngine_TVALID : (s.resetEngine).TVALID = false := rfl
@[simp] theorem State.resetEngine_BUF : (s.resetEngine).BUF = [] := rfl
@[simp] theorem State.resetEngine_BCNT : (s.resetEngine).BCNT = 0#5 := rfl
@[simp] theorem State.resetEngine_HOLD : (s.resetEngine).HOLD = [] := rfl
@[simp] theorem State.resetEngine_HVALID : (s.resetEngine).HVALID = false := rfl
@[simp] theorem State.resetEngine_MODE : (s.resetEngine).MODE = .idle := rfl
@[simp] theorem State.resetEngine_SANY : (s.resetEngine).SANY = false := rfl
@[simp] theorem State.resetEngine_ERR : (s.resetEngine).ERR = .noFault := rfl
@[simp] theorem State.resetEngine_ERRCMD : (s.resetEngine).ERRCMD = 0#32 := rfl
@[simp] theorem State.resetEngine_OUT : (s.resetEngine).OUT = s.OUT := rfl
@[simp] theorem State.resetEngine_CSROUT : (s.resetEngine).CSROUT = s.CSROUT := rfl
@[simp] theorem State.resetEngine_pending : (s.resetEngine).pending = s.pending := rfl
@[simp] theorem State.resetEngine_freeCount : (s.resetEngine).freeCount = s.freeCount + 5 := rfl

end Sys2Proof.Machine
end

