-- ==== Sys2Proof/Laws/Ops.lean ====
section
/-! SUPPORT. One lemma per shared operation that says everything it can do. -/

namespace Sys2Proof.Machine

open Sys2Proof

/-! ### Acceptance, faults, stops -/

theorem accept_ready {s : State} (rule : Result) (h : s.ERR = .noFault) : accept s rule = rule := by
  simp [accept, h]

theorem accept_faulted {s : State} (rule : Result) (h : s.ERR ≠ .noFault) : accept s rule = .next s := by
  simp [accept, h]

theorem accept_next {s t : State} {rule : Result} (h : accept s rule = .next t) :
    (s.ERR ≠ .noFault ∧ t = s) ∨ (s.ERR = .noFault ∧ rule = .next t) := by
  unfold accept at h
  split at h
  · exact .inr ⟨‹_›, h⟩
  · cases h; exact .inl ⟨‹_›, rfl⟩

@[simp] theorem raise_next {f : ErrCode} {cmd : CmdWord} {s t : State} :
    raise f cmd s = .next t ↔ s.latchFault f cmd = t := by
  simp [raise]

@[simp] theorem need_some {α : Type} (x : α) (f : Fault) (go : α → Result) : need (some x) f go = go x := rfl

@[simp] theorem need_none {α : Type} (f : Fault) (go : α → Result) : need none f go = .fault f := rfl

theorem need_next {α : Type} {o : Option α} {f : Fault} {go : α → Result} {t : State} (h : need o f go = .next t) :
    ∃ x, o = some x ∧ go x = .next t := by
  cases o with
  | none => cases h
  | some x => exact ⟨x, rfl, h⟩

theorem withWordSize_next {s t : State} {go : WordSize → Result} (h : withWordSize s go = .next t) :
    ∃ ws, wordSize? s.W = some ws ∧ go ws = .next t := need_next h

theorem withWordSize_some {s : State} {ws : WordSize} (go : WordSize → Result) (h : wordSize? s.W = some ws) :
    withWordSize s go = go ws := by simp [withWordSize, h]

theorem cfgv_iff {s : State} : s.cfgv = true ↔ ∃ ws, wordSize? s.W = some ws := Option.isSome_iff_exists

theorem cfgv_false_iff {s : State} : s.cfgv = false ↔ wordSize? s.W = none := by
  simp [State.cfgv]

/-! ### The key and the table -/

theorem key?_eq_some {s : State} {key : List Byte} (h : s.key? = some key) : key.length = s.KLEN.toNat :=
  Memory.readList_length h

theorem table?_eq_some {s : State} {ws : WordSize} {T : List (BitVec ws.bits)} :
    s.table? ws = some T ↔
      ∃ cells, s.S.readList 0 (tableWords s.R.toNat) = some cells ∧ cells.map (cellWord ws.bits) = T := by
  simp [State.table?]

theorem table?_length {s : State} {ws : WordSize} {T : List (BitVec ws.bits)} (h : s.table? ws = some T) :
    T.length = tableWords s.R.toNat := by
  obtain ⟨cells, hc, rfl⟩ := table?_eq_some.1 h
  simpa using Memory.readList_length hc

/-- A table read from S as Expand's words is those words. -/
theorem table?_of_cells {s : State} {ws : WordSize} {T : List (BitVec ws.bits)}
    (h : s.S.readList 0 (tableWords s.R.toNat) = some (T.map wordCell)) : s.table? ws = some T :=
  table?_eq_some.2 ⟨_, h, by simp [Function.comp_def]⟩

/-- The table depends on S and R alone. -/
theorem table?_congr {s t : State} (ws : WordSize) (hS : t.S = s.S) (hR : t.R = s.R) : t.table? ws = s.table? ws := by
  simp [State.table?, hS, hR]

/-! ### The block datapath -/

/-- Everything a pushed byte does. -/
theorem pushByte?_eq_some {s t : State} {b : Byte} :
    s.pushByte? b = some t ↔ s.BCNT.toNat < 16 ∧
      t = { s with BUF := s.BUF.write s.BCNT.toNat b, BCNT := s.BCNT + 1#5 } := by
  unfold State.pushByte? Config.bufCells
  split <;> simp_all [eq_comm]

theorem bcnt_succ {x : BitVec 5} (h : x.toNat < 16) : (x + 1#5).toNat = x.toNat + 1 := by
  rw [BitVec.toNat_add]; simp; omega

/-- Everything encrypting BUF does: it needs the block and the table, and changes scratch registers only. -/
theorem encryptBuf?_eq_some {s : State} {ws : WordSize} {out : List Byte} {t : State}
    (h : s.encryptBuf? ws = some (out, t)) :
    ∃ X T, s.BUF.readList 0 ws.blockBytes = some X ∧ s.table? ws = some T ∧ out = encBlock ws T s.R.toNat X ∧
      t = { s with A := t.A, B := t.B, k := t.k } := by
  unfold State.encryptBuf? at h
  split at h
  · rename_i X T hX hT; cases h; exact ⟨X, T, hX, hT, rfl, rfl⟩
  · cases h

theorem encryptBuf?_some {s : State} {ws : WordSize} {X : List Byte} {T : List (BitVec ws.bits)}
    (hX : s.BUF.readList 0 ws.blockBytes = some X) (hT : s.table? ws = some T) :
    ∃ t, s.encryptBuf? ws = some (encBlock ws T s.R.toNat X, t) ∧ t = { s with A := t.A, B := t.B, k := t.k } := by
  simp [State.encryptBuf?, hX, hT]

/-- Everything decrypting BUF does. -/
theorem decryptBuf?_eq_some {s : State} {ws : WordSize} {out : List Byte} {t : State}
    (h : s.decryptBuf? ws = some (out, t)) :
    ∃ X T, s.BUF.readList 0 ws.blockBytes = some X ∧ s.table? ws = some T ∧ out = decBlock ws T s.R.toNat X ∧
      t = { s with A := t.A, B := t.B, k := t.k } := by
  unfold State.decryptBuf? at h
  split at h
  · rename_i X T hX hT; cases h; exact ⟨X, T, hX, hT, rfl, rfl⟩
  · cases h

theorem decryptBuf?_some {s : State} {ws : WordSize} {X : List Byte} {T : List (BitVec ws.bits)}
    (hX : s.BUF.readList 0 ws.blockBytes = some X) (hT : s.table? ws = some T) :
    ∃ t, s.decryptBuf? ws = some (decBlock ws T s.R.toNat X, t) ∧ t = { s with A := t.A, B := t.B, k := t.k } := by
  simp [State.decryptBuf?, hX, hT]

theorem heldBlock?_eq_some {s : State} {ws : WordSize} {H : List Byte} (h : s.heldBlock? ws = some H) :
    (s.HVALID = true ∧ s.HOLD.readList 0 ws.blockBytes = some H) ∨ (s.HVALID = false ∧ H = []) := by
  unfold State.heldBlock? at h
  split at h
  · exact .inl ⟨‹_›, h⟩
  · rename_i hv; cases h; exact .inr ⟨Bool.eq_false_iff.2 hv, rfl⟩

/-! ### The host's list -/

theorem takeAction?_cons {s : State} {a : HostAction} {rest : List HostAction} (h : s.pending = a :: rest) :
    s.takeAction? = some (a, { s with pending := rest }) := by
  simp [State.takeAction?, h]

theorem takeAction?_nil {s : State} (h : s.pending = []) : s.takeAction? = none := by
  simp [State.takeAction?, h]

end Sys2Proof.Machine
end

