-- ==== Sys2Proof/Laws/PerInstr.lean ====
section
/-! SUPPORT. Statements made once per command. RowMatch: the encoder's word of a command is admitted by a row of the opcode
map that carries the command's mnemonic (30_encoding.md R75), read through the map's masks and not through the decoder. -/

namespace Sys2Proof.Laws.RowMatch

open Sys2Proof

/-- Some row of the opcode map has this command's mnemonic and admits the command's word. -/
def Statement (i : Instr) : Prop :=
  (opcodeMap.any fun row => row.mnemonic == i.mnemonic && row.admits (encode i)) = true

theorem nop : Statement .nop := rfl

/-- Masking with the fixed bits of format B leaves the opcode, whatever the operand. -/
theorem wordB_fixed_bits (opc b : BitVec 8) : wordB opc b &&& 0xFFFFFF00#32 = wordZ opc := by
  apply BitVec.eq_of_getLsbD_eq
  intro q hq
  rw [BitVec.getLsbD_and, wordB, wordZ, BitVec.getLsbD_append, BitVec.getLsbD_append, BitVec.getLsbD_append]
  interval_cases q <;> simp

/-- Masking with the fixed bits of format C leaves the opcode, whatever the operands. -/
theorem wordC_fixed_bits (opc r w : BitVec 8) : wordC opc r w &&& 0xFFFF0000#32 = wordZ opc := by
  apply BitVec.eq_of_getLsbD_eq
  intro q hq
  rw [BitVec.getLsbD_and, wordC, wordZ, BitVec.getLsbD_append, BitVec.getLsbD_append, BitVec.getLsbD_append,
    BitVec.getLsbD_append]
  interval_cases q <;> simp

theorem setcfg (wbits rounds : BitVec 8) : Statement (.setcfg wbits rounds) := by
  simp [Statement, opcodeMap, OpcodeRow.admits, encode, Instr.mnemonic, wordC_fixed_bits]
  rfl

theorem keyclr : Statement .keyclr := rfl

theorem keypush (b : Byte) : Statement (.keypush b) := by
  simp [Statement, opcodeMap, OpcodeRow.admits, encode, Instr.mnemonic, wordB_fixed_bits]
  rfl

theorem expand : Statement .expand := rfl

theorem din (b : Byte) : Statement (.din b) := by
  simp [Statement, opcodeMap, OpcodeRow.admits, encode, Instr.mnemonic, wordB_fixed_bits]
  rfl

theorem encb : Statement .encb := rfl

theorem decb : Statement .decb := rfl

theorem sbegin (dir : Direction) : Statement (.sbegin dir) := by cases dir <;> rfl

theorem send : Statement .send := rfl

theorem abort : Statement .abort := rfl

theorem srst : Statement .srst := rfl

end Sys2Proof.Laws.RowMatch
end

