-- ==== Sys2Proof/Tests/Slice0.lean ====
section
/-! SUPPORT. Tests on fixed values, with expected results from 95_test_vectors.md (the row is named in each comment), and
for every statement with hypotheses a concrete case that meets them all (`witness_<statement>`). -/

namespace Sys2Proof.Tests

open Sys2Proof Sys2Proof.Machine

/-! ### Words -/

/-- X17 to X25: ill-formed words, one or more for each format, an unassigned opcode, and the last word. -/
theorem test_illFormed_words_refused :
    [0x00000001#32, 0x01010020#32, 0x03000100#32, 0x05800000#32, 0x08000002#32, 0x0B000001#32, 0x0A800000#32,
      0x0C000000#32, 0xFFFFFFFF#32].all (fun cmd => !wordWellFormed cmd) = true := by decide

/-- R71: bit 0 and bit 23 of every Z-format word are reserved. -/
theorem test_formatZ_reserved_bits :
    [0x00#8, 0x02#8, 0x04#8, 0x06#8, 0x07#8, 0x09#8, 0x0A#8, 0x0B#8].all (fun opc =>
      wordWellFormed (wordZ opc) && !wordWellFormed (wordZ opc ||| 1#32) && !wordWellFormed (wordZ opc ||| 0x00800000#32))
      = true := by decide

/-- X1. -/
theorem test_decode_nop : decode 0b00000000_000000000000000000000000#32 = .ok .nop := by decide
/-- X2: ROUNDS = 12, WBITS = 32. -/
theorem test_decode_setcfg : decode 0b00000001_00000000_00001100_00100000#32 = .ok (.setcfg 32#8 12#8) := by decide
/-- X6. -/
theorem test_decode_keyclr : decode 0b00000010_000000000000000000000000#32 = .ok .keyclr := by decide
/-- X7. -/
theorem test_decode_keypush : decode 0b00000011_0000000000000000_11111111#32 = .ok (.keypush 0xFF#8) := by decide
/-- X8. -/
theorem test_decode_expand : decode 0b00000100_000000000000000000000000#32 = .ok .expand := by decide
/-- X9. -/
theorem test_decode_din : decode 0b00000101_0000000000000000_10000000#32 = .ok (.din 0x80#8) := by decide
/-- X10. -/
theorem test_decode_encb : decode 0b00000110_000000000000000000000000#32 = .ok .encb := by decide
/-- X11. -/
theorem test_decode_decb : decode 0b00000111_000000000000000000000000#32 = .ok .decb := by decide
/-- X12, X13. -/
theorem test_decode_sbegin :
    decode 0b00001000_00000000000000000000000_0#32 = .ok (.sbegin .enc) ∧
    decode 0b00001000_00000000000000000000000_1#32 = .ok (.sbegin .dec) := by decide
/-- X14. -/
theorem test_decode_send : decode 0b00001001_000000000000000000000000#32 = .ok .send := by decide
/-- X15. -/
theorem test_decode_abort : decode 0b00001010_000000000000000000000000#32 = .ok .abort := by decide
/-- X16. -/
theorem test_decode_srst : decode 0b00001011_000000000000000000000000#32 = .ok .srst := by decide

/-- X3, X24: the table's numbering of bits is the word's own. -/
theorem test_decodeTableWord :
    decodeTableWord 32 0x0100FF40 = some (.setcfg 64#8 255#8) ∧ decodeTableWord 32 0x0C000000 = none := by decide

/-! ### Word primitives and the cipher -/

/-- W2, W4, W10, W11, W13, W38. -/
theorem test_primitives :
    addw 0xFFFF#16 0xFFFF#16 = 0xFFFE#16 ∧ subw 0x8000#16 0xFFFF#16 = 0x8001#16 ∧
    rotl 0x8001#16 0xFFFF = 0xC000#16 ∧ rotr 0x8001#16 1 = 0xC000#16 ∧ rotl 0x1234#16 4 = 0x2341#16 ∧
    rotl 0x8000000000000001#64 0xFFFFFFFFFFFFFFFF = 0xC000000000000000#64 := by decide

/-- A5, A6: alignment of the key. -/
theorem test_align :
    (align .w32 [1#8, 2#8, 3#8, 4#8, 5#8]).map BitVec.toNat = [0x04030201, 0x00000005] ∧
    (align .w64 [1#8, 2#8, 3#8, 4#8, 5#8, 6#8, 7#8, 8#8, 9#8]).map BitVec.toNat =
      [0x0807060504030201, 0x0000000000000009] := by decide +kernel

/-- E3: 64-bit words, no rounds, the empty key. -/
theorem test_expand_w64 :
    (expand .w64 0 []).S.map BitVec.toNat = [0xD962603F8DB9099F, 0x630E0ED07399D5D4] := by decide +kernel

/-- B11, both ways: twelve rounds under the table of sixteen zero bytes. -/
theorem test_block_w32 :
    encBlock .w32 (expand .w32 12 (List.replicate 16 0#8)).S 12 (List.replicate 8 0#8) =
      [0x21#8, 0xA5#8, 0xDB#8, 0xEE#8, 0x15#8, 0x4B#8, 0x8F#8, 0x6D#8] ∧
    decBlock .w32 (expand .w32 12 (List.replicate 16 0#8)).S 12
      [0x21#8, 0xA5#8, 0xDB#8, 0xEE#8, 0x15#8, 0x4B#8, 0x8F#8, 0x6D#8] = List.replicate 8 0#8 := by decide +kernel

/-- S8 by hand from R151: zeros inside stay, zeros at the end go. -/
theorem test_stripZeros : stripZeros [7#8, 0#8, 9#8, 0#8, 0#8] = [7#8, 0#8, 9#8] ∧ stripZeros [0#8, 0#8] = [] := by decide

/-! ### Small states: w = 16, r = 0, the empty key, so S = [7865, 33F4] (E1) -/

/-- After `SETUP 16, 0`. -/
def ready : State :=
  { State.reset with
    W := 16#8, L := [(0, 0x37DA#64)], S := [(0, 0x7865#64), (1, 0x33F4#64)], TVALID := true }

/-- After SETCFG 16, 0 alone. -/
def configured : State := { State.reset with W := 16#8 }

/-- Some bytes waiting in BUF. -/
def withBytes (s : State) (X : List Byte) : State :=
  { s with BUF := s.BUF.writeList 0 X, BCNT := BitVec.ofNat 5 X.length }

/-- A whole block waiting: all zero bytes (B1). -/
def loaded : State := withBytes ready [0#8, 0#8, 0#8, 0#8]

/-- An encode stream just opened. -/
def encoding : State := { ready with MODE := .senc }

/-- A decode stream just opened. -/
def decoding : State := { ready with MODE := .sdec }

/-- A decode stream that holds back the block 01 02 03 00 (S12). -/
def holding : State := { decoding with HOLD := [(0, 1#8), (1, 2#8), (2, 3#8), (3, 0#8)], HVALID := true }

/-- Faulted, in an encode stream with one byte waiting. -/
def faulted : State := { withBytes encoding [0x41#8] with ERR := .illegalCommand, ERRCMD := 0x0C000000#32 }

/-- The state after the word is presented and runs, if the step goes on. -/
def after (s : State) (cmd : Nat) : Option State :=
  match step (s.withFetchWord 32 cmd) with
  | .next t => some t
  | _ => none

/-! ### One step -/

/-- NOP, R165: no effect in a stream. -/
theorem test_nop : after encoding 0x00000000 = some encoding := by decide +kernel

/-- K11. -/
theorem test_setcfg :
    (after State.reset 0x01000010).map (fun t => (t.csrRead 0#2, t.csrRead 1#2)) = some (0x00000004#32, 0x00000010#32) := by
  decide +kernel

/-- K12: WBITS = 24 is a ConfigurationError, W and R unchanged. -/
theorem test_setcfg_bad_width :
    (after configured 0x01000C18).map (fun t => (t.csrRead 0#2, t.csrRead 1#2, t.csrRead 3#2)) =
      some (0x00010004#32, 0x00000010#32, 0x01000C18#32) := by decide +kernel

/-- K7: STATUS loses TVALID, KLEN is 0. -/
theorem test_keyclr :
    (after { ready with K := [(0, 0xAA#8)], KLEN := 1#8 } 0x02000000).map (fun t => (t.csrRead 0#2, t.csrRead 2#2)) =
      some (0x00000004#32, 0#32) := by decide +kernel

/-- K5: a byte appended, TVALID cleared. -/
theorem test_keypush :
    (after { ready with K := [(0, 0xAA#8)], KLEN := 1#8 } 0x030000CC).map (fun t => (t.csrRead 0#2, t.csrRead 2#2, t.K)) =
      some (0x00000004#32, 2#32, [(0, 0xAA#8), (1, 0xCC#8)]) := by decide +kernel

/-- R112: the 256th byte is a ConfigurationError. -/
theorem test_keypush_full :
    (after { State.reset with KLEN := 255#8 } 0x03000007).map (fun t => (t.csrRead 0#2, t.csrRead 2#2)) =
      some (0x00010000#32, 255#32) := by decide +kernel

/-- E1. -/
theorem test_expand :
    (after configured 0x04000000).map (fun t => (t.csrRead 0#2, t.S, t.L)) =
      some (0x0000000C#32, [(0, 0x7865#64), (1, 0x33F4#64)], [(0, 0x37DA#64)]) := by decide +kernel

/-- E4: a key whose last word is short. -/
theorem test_expand_short_word :
    (after { configured with R := 1#8, K := [(0, 1#8), (1, 2#8), (2, 3#8)], KLEN := 3#8 } 0x04000000).map
      (fun t => (t.S, t.L)) =
      some ([(0, 0x68D4#64), (1, 0xEEFF#64), (2, 0x047C#64), (3, 0xF307#64)], [(0, 0x05C2#64), (1, 0x1DB0#64)]) := by
  decide +kernel

/-- C9: a byte beyond a whole block is an InputShapeError. -/
theorem test_din_full :
    (after loaded 0x05000099).map (fun t => (t.csrRead 0#2, t.csrRead 3#2, t.BUF)) =
      some (0x0002040C#32, 0x05000099#32, loaded.BUF) := by decide +kernel

/-- S12: the byte that completes 01 02 03 00 emits its encryption and sets SANY. -/
theorem test_din_completes_block :
    (after (withBytes encoding [1#8, 2#8, 3#8]) 0x05000000).map (fun t => (t.csrRead 0#2, t.OUT)) =
      some (0x0000002D#32, [0x66#8, 0x7A#8, 0xF7#8, 0x33#8]) := by decide +kernel

/-- B1. -/
theorem test_encb :
    (after loaded 0x06000000).map (fun t => (t.csrRead 0#2, t.OUT)) =
      some (0x0000000C#32, [0x65#8, 0x78#8, 0xF4#8, 0x33#8]) := by decide +kernel

/-- C3: two bytes are no block. -/
theorem test_encb_short :
    (after (withBytes ready [0#8, 0#8]) 0x06000000).map (fun t => (t.csrRead 0#2, t.csrRead 3#2, t.OUT)) =
      some (0x0002020C#32, 0x06000000#32, []) := by decide +kernel

/-- C15: all four bytes are emitted, zeros included. -/
theorem test_decb :
    (after (withBytes ready [0x65#8, 0x78#8, 0xF4#8, 0x33#8]) 0x07000000).map (fun t => (t.csrRead 0#2, t.OUT)) =
      some (0x0000000C#32, [0#8, 0#8, 0#8, 0#8]) := by decide +kernel

/-- C16: an empty BUF. -/
theorem test_decb_empty :
    (after ready 0x07000000).map (fun t => (t.csrRead 0#2, t.csrRead 3#2)) = some (0x0002000C#32, 0x07000000#32) := by
  decide +kernel

/-- R145, R36: STATUS of an open decode stream. -/
theorem test_sbegin : (after ready 0x08000001).map (fun t => t.csrRead 0#2) = some 0x0000000E#32 := by decide +kernel

/-- R145: a byte left in BUF is a SequenceError (70_reset_and_hazards.md R207). -/
theorem test_sbegin_leftover :
    (after (withBytes ready [0#8]) 0x08000000).map (fun t => (t.csrRead 0#2, t.csrRead 3#2)) =
      some (0x0003010C#32, 0x08000000#32) := by decide +kernel

/-- S12: three bytes, padded with one zero. -/
theorem test_send_pads :
    (after (withBytes encoding [1#8, 2#8, 3#8]) 0x09000000).map (fun t => (t.csrRead 0#2, t.OUT)) =
      some (0x0000000C#32, [0x66#8, 0x7A#8, 0xF7#8, 0x33#8]) := by decide +kernel

/-- S12: the held block, its trailing zero stripped. -/
theorem test_send_strips :
    (after holding 0x09000000).map (fun t => (t.csrRead 0#2, t.OUT)) = some (0x0000000C#32, [1#8, 2#8, 3#8]) := by
  decide +kernel

/-- R166: ABORT runs while faulted, and keeps the table. -/
theorem test_abort :
    (after faulted 0x0A000000).map (fun t => (t.csrRead 0#2, t.csrRead 3#2, t.S)) = some (0x0000000C#32, 0#32, ready.S) := by
  decide +kernel

/-- X23: 0x0A800000 is not ABORT and does not clear a fault. -/
theorem test_abort_illegal : after faulted 0x0A800000 = some faulted := by decide +kernel

/-- R167: SRST runs while faulted; STATUS, CFG, KLEN and ERRCMD read 0. -/
theorem test_srst :
    (after faulted 0x0B000000).map (fun t => [t.csrRead 0#2, t.csrRead 1#2, t.csrRead 2#2, t.csrRead 3#2]) =
      some [0#32, 0#32, 0#32, 0#32] := by decide +kernel

/-- X22: 0x0B000001 is not SRST: IllegalCommand, nothing reset. -/
theorem test_srst_illegal :
    (after ready 0x0B000001).map (fun t => (t.csrRead 0#2, t.csrRead 3#2)) = some (0x0004000C#32, 0x0B000001#32) := by
  decide +kernel

/-- The state after one host action, if the step goes on. -/
def afterAction (s : State) (a : HostAction) : Option State :=
  match step { s with pending := [a] } with
  | .next t => some t
  | _ => none

/-- R168, R200, R36: a CSR read while faulted, and the reset input. -/
theorem test_host_actions :
    (afterAction faulted (.csrRead 0#2)).map State.CSROUT = some [(0#2, 0x0004010D#32)] ∧
    (afterAction faulted .assertReset).map (fun t => t.csrRead 0#2) = some 0#32 := by decide +kernel

/-! ### The invariant on the small states -/

/-- The clauses of the invariant as a check that evaluates, the three word sizes in turn. -/
def checkInv (s : State) : Bool :=
  decide (s.W = 0#8 ∨ s.W = 16#8 ∨ s.W = 32#8 ∨ s.W = 64#8) &&
  decide (s.TVALID = true → s.cfgv = true) && decide (s.MODE ≠ .idle → s.TVALID = true) &&
  decide (s.BCNT ≠ 0#5 → s.cfgv = true) &&
  [WordSize.w16, .w32, .w64].all (fun ws => wordSize? s.W != some ws ||
    (decide (s.BCNT.toNat ≤ ws.blockBytes) && decide (s.MODE ≠ .idle → s.BCNT.toNat ≤ ws.blockBytes - 1) &&
      decide (s.HVALID = true → s.HOLD.written ws.blockBytes))) &&
  decide (s.HVALID = true → s.MODE = .sdec) && decide (s.SANY = true → s.MODE = .senc) &&
  decide (s.ERR = .noFault → s.ERRCMD = 0#32) && decide (s.ERR ≠ .noFault → s.ERRCMD ≠ 0#32) &&
  decide (s.K.written s.KLEN.toNat) && decide (s.TVALID = true → s.S.written (tableWords s.R.toNat)) &&
  decide (s.BUF.written s.BCNT.toNat) &&
  (s.K.wf && s.L.wf && s.S.wf && s.BUF.wf && s.HOLD.wf) &&
  (decide (s.K.below Config.keyCells) && decide (s.L.below Config.keyWordCells) && decide (s.S.below Config.tableCells) &&
    decide (s.BUF.below Config.bufCells) && decide (s.HOLD.below Config.holdCells))

theorem inv_of_checkInv {s : State} (h : checkInv s = true) : StateInv s := by
  simp only [checkInv, Bool.and_eq_true, decide_eq_true_eq, List.all_cons, List.all_nil, Bool.or_eq_true, bne_iff_ne,
    and_true] at h
  obtain ⟨⟨⟨⟨⟨⟨⟨⟨⟨⟨⟨⟨⟨h1, h2⟩, h3⟩, h4⟩, h5, h6, h7⟩, h8⟩, h9⟩, h10⟩, h11⟩, h12⟩, h13⟩, h14⟩, h15⟩, h16⟩ := h
  have sizes : ∀ ws, wordSize? s.W = some ws → s.BCNT.toNat ≤ ws.blockBytes ∧
      (s.MODE ≠ .idle → s.BCNT.toNat ≤ ws.blockBytes - 1) ∧ (s.HVALID = true → s.HOLD.written ws.blockBytes) := by
    intro ws hw
    cases ws
    · exact and_assoc.mp (h5.resolve_left (not_not_intro hw))
    · exact and_assoc.mp (h6.resolve_left (not_not_intro hw))
    · exact and_assoc.mp (h7.resolve_left (not_not_intro hw))
  obtain ⟨⟨⟨⟨c1, c2⟩, c3⟩, c4⟩, c5⟩ := h15
  obtain ⟨⟨⟨⟨b1, b2⟩, b3⟩, b4⟩, b5⟩ := h16
  exact
    { wLegal := h1, tableConfigured := h2, streamHasTable := h3, bytesConfigured := h4
      bytesFit := fun ws hw => (sizes ws hw).1, streamBytesFit := fun hm ws hw => (sizes ws hw).2.1 hm
      heldInDecode := h8, emittedInEncode := h9, noFaultNoWord := h10, faultHasWord := h11, keyWritten := h12
      tableWritten := h13, bufWritten := h14, holdWritten := fun hv ws hw => (sizes ws hw).2.2 hv
      canonical := ⟨c1, c2, c3, c4, c5⟩, inRange := ⟨b1, b2, b3, b4, b5⟩ }

theorem inv_ready : StateInv ready := inv_of_checkInv (by decide +kernel)
theorem inv_loaded : StateInv loaded := inv_of_checkInv (by decide +kernel)
theorem inv_encoding : StateInv (withBytes encoding [1#8, 2#8, 3#8]) := inv_of_checkInv (by decide +kernel)
theorem inv_holding : StateInv holding := inv_of_checkInv (by decide +kernel)
theorem inv_faulted : StateInv faulted := inv_of_checkInv (by decide +kernel)

theorem table_ready : ready.table? .w16 = some ([0x7865, 0x33F4] : List (BitVec 16)) := by rfl

/-! ### Witnesses: every hypothesis of a statement met at once, one case for each clause -/

theorem witness_StepRunsThePresentedCommand :
    (∃ (s : State) (cmd : CmdWord) (rest : List HostAction) (i : Instr),
      s.pending = .command cmd :: rest ∧ decode cmd = .ok i ∧ i = .setcfg 64#8 255#8) ∧
    (∃ i, decodeTableWord 32 0x0A000000 = some i) ∧ ∃ i, decodeTableWord 8 0x00 = some i :=
  ⟨⟨ready.present 0x0100FF40#32, 0x0100FF40#32, [], _, rfl, by decide, rfl⟩, ⟨.abort, by decide⟩, ⟨.nop, by decide⟩⟩

theorem witness_IllegalWordsRaiseIllegalCommand :
    ∀ cmd ∈ [0x00000001#32, 0x0C000000#32, 0xFFFFFFFF#32],
      (ready.present cmd).pending = .command cmd :: [] ∧ wordWellFormed cmd = false ∧ ready.ERR = .noFault := by
  have h : [0x00000001#32, 0x0C000000#32, 0xFFFFFFFF#32].all (fun cmd => !wordWellFormed cmd) = true := by decide
  exact fun cmd hc => ⟨rfl, Bool.not_eq_true' _ |>.mp (List.all_eq_true.mp h cmd hc), rfl⟩

theorem witness_FaultedEngineIgnoresCommands :
    (faulted.present 0x09000000#32).pending = .command 0x09000000#32 :: [] ∧ faulted.ERR ≠ .noFault ∧
    (0x09000000#32 : CmdWord) ≠ 0x0A000000#32 ∧ (0x09000000#32 : CmdWord) ≠ 0x0B000000#32 := by decide

theorem witness_OtherHostActions :
    ready.pending = [] ∧ ({ ready with pending := [.csrRead 3#2] } : State).pending = .csrRead 3#2 :: [] ∧
    ({ faulted with pending := [.assertReset, .csrRead 0#2] } : State).pending = .assertReset :: [.csrRead 0#2] := by
  decide

/-- The three clauses of SETCFG: 16 and 64 are legal, 0 and 255 are not. -/
theorem witness_SetcfgSetsTheParameters :
    ready.ERR = .noFault ∧ ready.MODE = .idle ∧ encoding.ERR = .noFault ∧ encoding.MODE ≠ .idle ∧
    (∀ w ∈ [16#8, 64#8], w = 16#8 ∨ w = 32#8 ∨ w = 64#8) ∧
    ∀ w ∈ [0#8, 255#8], ¬ (w = 16#8 ∨ w = 32#8 ∨ w = 64#8) := by decide

theorem witness_KeyclrEmptiesTheKey :
    ready.ERR = .noFault ∧ ready.MODE = .idle ∧ decoding.ERR = .noFault ∧ decoding.MODE ≠ .idle := by decide

/-- The last byte that fits is at KLEN = 254. -/
theorem witness_KeypushAppendsAByte :
    (∃ s : State, s.ERR = .noFault ∧ s.MODE = .idle ∧ s.KLEN ≠ 255#8 ∧ s.KLEN = 254#8) ∧
    (∃ s : State, s.ERR = .noFault ∧ s.MODE = .idle ∧ s.KLEN ≠ 255#8 ∧ s.key? = some [0xAA#8]) ∧
    (∃ s : State, s.ERR = .noFault ∧ s.MODE ≠ .idle) ∧
    ∃ s : State, s.ERR = .noFault ∧ s.MODE = .idle ∧ s.KLEN = 255#8 :=
  ⟨⟨{ ready with KLEN := 254#8 }, by decide⟩, ⟨{ ready with K := [(0, 0xAA#8)], KLEN := 1#8 }, by decide⟩,
    ⟨encoding, by decide⟩, ⟨{ ready with KLEN := 255#8 }, by decide⟩⟩

theorem witness_ExpandInstallsTheTable :
    (configured.ERR = .noFault ∧ configured.MODE = .idle ∧ wordSize? configured.W = some .w16 ∧
      configured.key? = some []) ∧
    (encoding.ERR = .noFault ∧ encoding.MODE ≠ .idle) ∧
    State.reset.ERR = .noFault ∧ State.reset.MODE = .idle ∧ State.reset.cfgv = false := by decide

/-- `bb` is 4: BCNT = 3 still fits, BCNT = 4 does not. -/
theorem witness_DinIdleStoresAByte :
    (∃ s : State, s.ERR = .noFault ∧ s.MODE = .idle ∧ wordSize? s.W = some .w16 ∧ s.BCNT.toNat < WordSize.w16.blockBytes ∧
      s.BCNT = 3#5) ∧
    (loaded.ERR = .noFault ∧ loaded.MODE = .idle ∧ wordSize? loaded.W = some .w16 ∧
      loaded.BCNT.toNat = WordSize.w16.blockBytes) ∧
    State.reset.ERR = .noFault ∧ State.reset.cfgv = false :=
  ⟨⟨withBytes ready [1#8, 2#8, 3#8], by decide⟩, by decide, by decide⟩

/-- The clauses of ENCB and of DECB, whose hypotheses are the same. -/
theorem witness_EncbEmitsTheEncryptedBlock_DecbEmitsTheDecryptedBlock :
    (loaded.ERR = .noFault ∧ loaded.MODE = .idle ∧ loaded.TVALID = true ∧ wordSize? loaded.W = some .w16 ∧
      loaded.BCNT.toNat = WordSize.w16.blockBytes ∧
      loaded.BUF.readList 0 WordSize.w16.blockBytes = some [0#8, 0#8, 0#8, 0#8] ∧
      loaded.table? .w16 = some ([0x7865, 0x33F4] : List (BitVec 16))) ∧
    (encoding.ERR = .noFault ∧ encoding.MODE ≠ .idle) ∧ (configured.ERR = .noFault ∧ configured.TVALID = false) ∧
    ready.ERR = .noFault ∧ ready.MODE = .idle ∧ ready.TVALID = true ∧ wordSize? ready.W = some .w16 ∧
      ready.BCNT.toNat ≠ WordSize.w16.blockBytes :=
  ⟨⟨rfl, rfl, rfl, by decide, by decide, by decide, by rfl⟩, by decide, by decide, by decide⟩

theorem witness_SbeginOpensAStream :
    (ready.ERR = .noFault ∧ ready.MODE = .idle ∧ ready.TVALID = true ∧ ready.BCNT = 0#5) ∧
    (encoding.ERR = .noFault ∧ encoding.MODE ≠ .idle) ∧ (configured.ERR = .noFault ∧ configured.TVALID = false) ∧
    loaded.ERR = .noFault ∧ loaded.BCNT ≠ 0#5 := by decide

/-- `bb` is 4: the third byte does not complete the block, the fourth does. -/
theorem witness_DinSencEncryptsEachBlock :
    ∀ X ∈ [[1#8, 2#8], [1#8, 2#8, 3#8]],
      (withBytes encoding X).ERR = .noFault ∧ (withBytes encoding X).MODE = .senc ∧
      wordSize? (withBytes encoding X).W = some .w16 ∧
      (withBytes encoding X).BUF.readList 0 (withBytes encoding X).BCNT.toNat = some X ∧
      (withBytes encoding X).table? .w16 = ready.table? .w16 ∧ (ready.table? .w16).isSome = true ∧
      ((withBytes encoding X).BCNT.toNat + 1 < WordSize.w16.blockBytes ∨
        (withBytes encoding X).BCNT.toNat + 1 = WordSize.w16.blockBytes) := by decide +kernel

/-- The same for a decode stream, with nothing held and with a block held. -/
theorem witness_DinSdecHoldsTheLastBlock :
    ∀ s ∈ [decoding, holding], ∀ X ∈ [[1#8, 2#8], [1#8, 2#8, 3#8]],
      (withBytes s X).ERR = .noFault ∧ (withBytes s X).MODE = .sdec ∧
      wordSize? (withBytes s X).W = some .w16 ∧
      (withBytes s X).BUF.readList 0 (withBytes s X).BCNT.toNat = some X ∧
      (withBytes s X).table? .w16 = ready.table? .w16 ∧ (ready.table? .w16).isSome = true ∧
      ((withBytes s X).HVALID = true →
        (withBytes s X).HOLD.readList 0 WordSize.w16.blockBytes = some [1#8, 2#8, 3#8, 0#8]) ∧
      ((withBytes s X).BCNT.toNat + 1 < WordSize.w16.blockBytes ∨
        (withBytes s X).BCNT.toNat + 1 = WordSize.w16.blockBytes) := by decide +kernel

/-- A short chunk of three bytes, nothing at all, and a whole number of blocks. -/
theorem witness_SendSencPadsTheLastBlock :
    (∀ X ∈ [[], [1#8, 2#8, 3#8]],
      (withBytes encoding X).ERR = .noFault ∧ (withBytes encoding X).MODE = .senc ∧
      wordSize? (withBytes encoding X).W = some .w16 ∧
      ((withBytes encoding X).BCNT ≠ 0#5 ∨ (withBytes encoding X).SANY = false) ∧
      (withBytes encoding X).BCNT.toNat < WordSize.w16.blockBytes ∧
      (withBytes encoding X).BUF.readList 0 (withBytes encoding X).BCNT.toNat = some X ∧
      (withBytes encoding X).table? .w16 = ready.table? .w16 ∧ (ready.table? .w16).isSome = true) ∧
    ∃ s : State, s.ERR = .noFault ∧ s.MODE = .senc ∧ wordSize? s.W = some .w16 ∧ s.BCNT = 0#5 ∧ s.SANY = true :=
  ⟨by decide +kernel, { encoding with SANY := true }, by decide⟩

theorem witness_SendSdecStripsTheLastBlock :
    (∃ s : State, s.ERR = .noFault ∧ s.MODE = .sdec ∧ s.BCNT ≠ 0#5) ∧
    (decoding.ERR = .noFault ∧ decoding.MODE = .sdec ∧ decoding.BCNT = 0#5 ∧ decoding.HVALID = false) ∧
    holding.ERR = .noFault ∧ holding.MODE = .sdec ∧ holding.BCNT = 0#5 ∧ holding.HVALID = true ∧
      wordSize? holding.W = some .w16 ∧
      holding.HOLD.readList 0 WordSize.w16.blockBytes = some [1#8, 2#8, 3#8, 0#8] :=
  ⟨⟨withBytes decoding [1#8], by decide⟩, by decide, by decide⟩

/-- Two states that differ in the key, the table and the fault latch and agree in what the host sees. -/
theorem witness_SrstResetsTheEngine :
    faulted ≠ State.reset ∧ faulted.OUT = State.reset.OUT ∧ faulted.CSROUT = State.reset.CSROUT ∧
    faulted.pending = State.reset.pending ∧ faulted.freeCount = State.reset.freeCount := by decide

/-- Two states that differ in the key, the table and the buffers and agree in the readable registers. -/
theorem witness_CsrReadsRevealNoSecret :
    ∃ s s' : State, s.S ≠ s'.S ∧ s.K ≠ s'.K ∧ s.HOLD ≠ s'.HOLD ∧ s.W = s'.W ∧ s.R = s'.R ∧ s.KLEN = s'.KLEN ∧
      s.TVALID = s'.TVALID ∧ s.BCNT = s'.BCNT ∧ s.HVALID = s'.HVALID ∧ s.MODE = s'.MODE ∧ s.SANY = s'.SANY ∧
      s.ERR = s'.ERR ∧ s.ERRCMD = s'.ERRCMD :=
  ⟨ready, { ready with S := [(0, 1#64), (1, 2#64)], K := [(0, 5#8)], HOLD := [(3, 9#8)] }, by decide⟩

theorem witness_FaultsAreThoseOfTheTable :
    (StateInv loaded ∧ loaded.ERR = .noFault ∧ faultOf (.din 7#8) loaded = .inputShapeError) ∧
    (StateInv holding ∧ holding.ERR = .noFault ∧ faultOf .send holding = .noFault) ∧
    decode 0x0C000000#32 = .error .unassignedOpcode :=
  ⟨⟨inv_loaded, rfl, by decide⟩, ⟨inv_holding, rfl, by decide⟩, by decide⟩

theorem witness_FaultsArePrecise :
    ∃ t, loaded.ERR = .noFault ∧ exec (.din 7#8) loaded = .next t ∧ t.ERR ≠ .noFault :=
  ⟨{ loaded with ERR := .inputShapeError, ERRCMD := 0x05000007#32 }, rfl, rfl, by decide⟩

/-- The three commands that need the table, and the three that make it stale, each with success and with a fault. -/
theorem witness_StaleTableIsNotUsed : configured.ERR = .noFault ∧ configured.TVALID = false ∧
    (∀ i ∈ [Instr.encb, .decb, .sbegin .dec], i = .encb ∨ i = .decb ∨ ∃ dir, i = .sbegin dir) ∧
    (∀ i ∈ [Instr.setcfg 16#8 0#8, .setcfg 17#8 0#8, .keyclr, .keypush 1#8],
      (∃ w r, i = .setcfg w r) ∨ i = .keyclr ∨ ∃ b, i = .keypush b) ∧
    faultOf (.setcfg 16#8 0#8) ready = .noFault ∧ faultOf (.setcfg 17#8 0#8) ready = .configurationError :=
  ⟨rfl, rfl, by intro i hi; simp at hi; rcases hi with h | h | h <;> simp [h],
    by intro i hi; simp at hi; rcases hi with h | h | h | h <;> simp [h], by decide, by decide⟩

theorem witness_StreamsFreezeKeyAndTable :
    (encoding.ERR = .noFault ∧ encoding.MODE ≠ .idle) ∧
    ∃ t, holding.MODE ≠ .idle ∧ Instr.send ≠ .srst ∧ exec .send holding = .next t :=
  ⟨by decide, ⟨{ holding with OUT := [1#8, 2#8, 3#8], HVALID := false, MODE := .idle }, by decide, by decide, rfl⟩⟩

theorem witness_OnlyExpandWritesTheTable :
    ∃ t, exec (.keypush 9#8) ready = .next t ∧ Instr.keypush 9#8 ≠ .srst ∧ Instr.keypush 9#8 ≠ .expand :=
  ⟨{ ready with K := [(0, 9#8)], KLEN := 1#8, TVALID := false }, rfl, by decide, by decide⟩

theorem witness_OutputIsAppendOnly : ∃ t, step (holding.present 0x09000000#32) = .next t ∧ t.OUT ≠ [] :=
  ⟨{ holding with OUT := [1#8, 2#8, 3#8], HVALID := false, MODE := .idle }, rfl, by decide⟩

/-- Rotation amounts at the ends of the range, and the width. -/
theorem witness_RotlMovesBits_RotrMovesBits_RotationsAreInverse :
    0 < 16 ∧ 0 % 16 = 0 ∧ 16 % 16 = 0 ∧ 1 % 16 ≠ 0 ∧ 15 % 16 ≠ 0 ∧ 15 < 16 := by decide

theorem witness_LittleEndianConversions :
    WordSize.w16.bytes ≤ [1#8, 2#8].length ∧ 1 + WordSize.w16.bytes ≤ [1#8, 2#8, 3#8].length := by decide

theorem witness_MemReadAfterMemWrite : (1 : Nat) < 2 ∧ ¬ ((5 : Nat) ≤ 7 ∧ 7 < 5 + 2) ∧ ¬ ((5 : Nat) ≤ 4 ∧ 4 < 5 + 2) := by
  decide

/-- The last word of the shortest and of the longest key. -/
theorem witness_AlignPacksTheKey : 0 < (align .w16 []).length ∧ 127 < (align .w16 (List.replicate 255 0xAB#8)).length := by
  decide +kernel

theorem witness_SeedClosedForm : (1 : Nat) < 2 * (0 + 1) ∧ (511 : Nat) < 2 * (255 + 1) := by decide

theorem witness_ZeroBytesInTheLastKeyWord :
    keyWords .w32 ([1#8].length + 3) = keyWords .w32 [1#8].length ∧
    keyWords .w16 (([] : List Byte).length + 2) = keyWords .w16 ([] : List Byte).length := by decide

theorem witness_ResetLeavesTheEngineUnconfigured :
    (Instr.din 0xFF#8 = .expand ∨ (∃ b, Instr.din 0xFF#8 = .din b) ∨ Instr.din 0xFF#8 = .encb) ∧
    (∃ r, Instr.setcfg 64#8 255#8 = .setcfg 64#8 r) ∧ ∃ b, Instr.keypush 0#8 = .keypush b :=
  ⟨.inr (.inl ⟨_, rfl⟩), ⟨_, rfl⟩, ⟨_, rfl⟩⟩

theorem witness_RowsAdmitTheirCommand : ⟨"SRST", 0x0B000000#32, 0xFFFFFFFF#32⟩ ∈ opcodeMap := by decide

theorem witness_BlockCipherIsInvertible :
    [1#8, 2#8, 3#8, 4#8].length = WordSize.w16.blockBytes ∧ (List.replicate 16 0#8).length = WordSize.w64.blockBytes := by
  decide

theorem witness_CodecLengths :
    [1#8, 2#8, 3#8, 4#8] ≠ [] ∧ [1#8, 2#8, 3#8, 4#8].length % WordSize.w16.blockBytes = 0 := by decide

theorem witness_BlocksAreIndependent :
    [1#8, 2#8, 3#8, 4#8] ≠ [] ∧ [5#8] ≠ [] ∧ [1#8, 2#8, 3#8, 4#8].length % WordSize.w16.blockBytes = 0 := by decide

/-- A state from which a stream may run; ciphertexts that are and are not a whole number of blocks. -/
theorem witness_EncodeStreamIsEncode_DecodeStreamIsDecode_DecodeHoldsBackOneBlock :
    (StateInv ready ∧ ready.MODE = .idle ∧ ready.TVALID = true ∧ ready.BCNT = 0#5 ∧ ready.ERR = .noFault ∧
      wordSize? ready.W = some .w16 ∧ ready.table? .w16 = some ([0x7865, 0x33F4] : List (BitVec 16))) ∧
    [1#8, 2#8, 3#8, 4#8].length % WordSize.w16.blockBytes = 0 ∧
    [1#8, 2#8, 3#8, 4#8, 5#8].length % WordSize.w16.blockBytes ≠ 0 ∧
    0 < 1 ∧ [1#8, 2#8, 3#8, 4#8].length = 1 * WordSize.w16.blockBytes :=
  ⟨⟨inv_ready, rfl, rfl, rfl, rfl, by decide, table_ready⟩, by decide⟩

theorem matches_ready : TableMatchesKey ready := fun _ => ⟨.w16, [], by decide, by decide, by decide +kernel⟩

/-- A step that rebuilds the table, one that raises a fault, and one that waits. -/
theorem witness_StepKeepsTheInvariant_StepKeepsTableMatchesKey_StepAnswersANextState :
    (StateInv ready ∧ TableMatchesKey ready ∧ step ready = .next ready) ∧
    ∃ t, StateInv (ready.present 0x06000000#32) ∧ TableMatchesKey (ready.present 0x06000000#32) ∧
      step (ready.present 0x06000000#32) = .next t ∧ t.ERR = .inputShapeError :=
  ⟨⟨inv_ready, matches_ready, rfl⟩,
    ⟨{ ready with ERR := .inputShapeError, ERRCMD := 0x06000000#32 }, inv_of_checkInv (by decide +kernel),
      fun _ => ⟨.w16, [], by decide, by decide, by decide +kernel⟩, rfl, by decide⟩⟩

end Sys2Proof.Tests
end

section
/-! ## Proofs of the statements about the state, 10_state.md

What a command and a host action can do is said once (`CommandEffect`, `ActionEffect`); every invariant is then a case
analysis on the effect. -/

namespace Sys2Proof.Machine

open Sys2Proof

/-! ### What a command can do -/

/-- Every way a command can lead from `s` to a next state: ignored, faulted, or one of the effects of its rule, each
with the conditions under which the rule gives it. -/
inductive CommandEffect (s : State) : Instr → State → Prop
  /-- 60_exceptions.md R182: ignored while faulted. -/
  | ignored (i : Instr) (faulted : s.ERR ≠ .noFault) : CommandEffect s i s
  /-- R180: the fault latched. NOP raises none. -/
  | raised (i : Instr) (f : ErrCode) (ready : s.ERR = .noFault) (notNop : i ≠ .nop) (isFault : f ≠ .noFault) :
      CommandEffect s i (s.latchFault f (encode i))
  /-- 44_system.md R165 -/
  | nop (ready : s.ERR = .noFault) : CommandEffect s .nop s
  /-- 41_config_key.md R110 -/
  | setcfg (wbits rounds : BitVec 8) (ready : s.ERR = .noFault) (idle : s.MODE = .idle)
      (legal : wordSize? wbits ≠ none) :
      CommandEffect s (.setcfg wbits rounds) { s with W := wbits, R := rounds, TVALID := false, BCNT := 0#5 }
  /-- R111 -/
  | keyclr (ready : s.ERR = .noFault) (idle : s.MODE = .idle) :
      CommandEffect s .keyclr { s with KLEN := 0#8, TVALID := false }
  /-- R112 -/
  | keypush (b : Byte) (ready : s.ERR = .noFault) (idle : s.MODE = .idle) (room : s.KLEN ≠ 255#8) :
      CommandEffect s (.keypush b) { s with K := s.K.write s.KLEN.toNat b, KLEN := s.KLEN + 1#8, TVALID := false }
  /-- R113 -/
  | expand (ws : WordSize) (key : List Byte) (ready : s.ERR = .noFault) (idle : s.MODE = .idle)
      (size : wordSize? s.W = some ws) (hasKey : s.key? = some key) :
      CommandEffect s .expand (s.installTable ws (expand ws s.R.toNat key))
  /-- 42_block.md R131, 43_stream.md R146, R147: a byte that completes no block of a stream. -/
  | dinStored (b : Byte) (ws : WordSize) (ready : s.ERR = .noFault) (size : wordSize? s.W = some ws)
      (notFull : s.MODE = .idle → s.BCNT.toNat ≠ ws.blockBytes)
      (incomplete : s.MODE ≠ .idle → s.BCNT.toNat + 1 ≠ ws.blockBytes) (inBuf : s.BCNT.toNat < 16) :
      CommandEffect s (.din b) { s with BUF := s.BUF.write s.BCNT.toNat b, BCNT := s.BCNT + 1#5 }
  /-- R146: a byte that completes a block of an encode stream. -/
  | dinEncrypted (b : Byte) (ws : WordSize) (X : List Byte) (T : List (BitVec ws.bits)) (a a' : Word) (k : BitVec 11)
      (ready : s.ERR = .noFault) (senc : s.MODE = .senc) (size : wordSize? s.W = some ws)
      (complete : s.BCNT.toNat + 1 = ws.blockBytes)
      (block : (s.BUF.write s.BCNT.toNat b).readList 0 ws.blockBytes = some X) (table : s.table? ws = some T) :
      CommandEffect s (.din b)
        { s with BUF := s.BUF.write s.BCNT.toNat b, BCNT := 0#5, SANY := true,
                 OUT := s.OUT ++ encBlock ws T s.R.toNat X, A := a, B := a', k := k }
  /-- R147: a byte that completes a block of a decode stream. -/
  | dinHeld (b : Byte) (ws : WordSize) (X H : List Byte) (T : List (BitVec ws.bits)) (a a' : Word) (k : BitVec 11)
      (ready : s.ERR = .noFault) (sdec : s.MODE = .sdec) (size : wordSize? s.W = some ws)
      (complete : s.BCNT.toNat + 1 = ws.blockBytes)
      (block : (s.BUF.write s.BCNT.toNat b).readList 0 ws.blockBytes = some X) (table : s.table? ws = some T)
      (held : s.heldBlock? ws = some H) :
      CommandEffect s (.din b)
        { s with BUF := s.BUF.write s.BCNT.toNat b, BCNT := 0#5, HVALID := true,
                 HOLD := s.HOLD.writeList 0 (decBlock ws T s.R.toNat X), OUT := s.OUT ++ H, A := a, B := a', k := k }
  /-- 42_block.md R134 -/
  | encb (ws : WordSize) (X : List Byte) (T : List (BitVec ws.bits)) (a a' : Word) (k : BitVec 11)
      (ready : s.ERR = .noFault) (idle : s.MODE = .idle) (valid : s.TVALID = true) (size : wordSize? s.W = some ws)
      (whole : s.BCNT.toNat = ws.blockBytes) (block : s.BUF.readList 0 ws.blockBytes = some X)
      (table : s.table? ws = some T) :
      CommandEffect s .encb
        { s with BCNT := 0#5, OUT := s.OUT ++ encBlock ws T s.R.toNat X, A := a, B := a', k := k }
  /-- R135 -/
  | decb (ws : WordSize) (X : List Byte) (T : List (BitVec ws.bits)) (a a' : Word) (k : BitVec 11)
      (ready : s.ERR = .noFault) (idle : s.MODE = .idle) (valid : s.TVALID = true) (size : wordSize? s.W = some ws)
      (whole : s.BCNT.toNat = ws.blockBytes) (block : s.BUF.readList 0 ws.blockBytes = some X)
      (table : s.table? ws = some T) :
      CommandEffect s .decb
        { s with BCNT := 0#5, OUT := s.OUT ++ decBlock ws T s.R.toNat X, A := a, B := a', k := k }
  /-- 43_stream.md R145 -/
  | sbegin (dir : Direction) (ready : s.ERR = .noFault) (idle : s.MODE = .idle) (valid : s.TVALID = true)
      (empty : s.BCNT = 0#5) :
      CommandEffect s (.sbegin dir) { s with MODE := Mode.ofDirection dir, SANY := false, HVALID := false }
  /-- R148: a short last chunk, or a stream that has emitted nothing. -/
  | sendPadded (ws : WordSize) (X : List Byte) (T : List (BitVec ws.bits)) (a a' : Word) (k : BitVec 11)
      (ready : s.ERR = .noFault) (senc : s.MODE = .senc) (owed : s.BCNT ≠ 0#5 ∨ s.SANY = false)
      (size : wordSize? s.W = some ws) (block : (s.padBuf ws).BUF.readList 0 ws.blockBytes = some X)
      (table : s.table? ws = some T) :
      CommandEffect s .send
        { s with BUF := (s.padBuf ws).BUF, BCNT := 0#5, MODE := .idle, SANY := false,
                 OUT := s.OUT ++ encBlock ws T s.R.toNat X, A := a, B := a', k := k }
  /-- R148: a whole number of blocks, all emitted. -/
  | sendWhole (ready : s.ERR = .noFault) (senc : s.MODE = .senc) (empty : s.BCNT = 0#5) (emitted : s.SANY = true) :
      CommandEffect s .send { s with MODE := .idle, SANY := false }
  /-- R149: the held block released, its zeros stripped. -/
  | sendReleased (ws : WordSize) (H : List Byte) (ready : s.ERR = .noFault) (sdec : s.MODE = .sdec)
      (empty : s.BCNT = 0#5) (holding : s.HVALID = true) (size : wordSize? s.W = some ws)
      (held : s.heldBlock? ws = some H) :
      CommandEffect s .send { s with OUT := s.OUT ++ stripZeros H, HVALID := false, MODE := .idle }
  /-- R149: an empty decode stream. -/
  | sendNothing (ready : s.ERR = .noFault) (sdec : s.MODE = .sdec) (empty : s.BCNT = 0#5)
      (notHolding : s.HVALID = false) : CommandEffect s .send { s with MODE := .idle }
  /-- 44_system.md R166 -/
  | abort : CommandEffect s .abort s.clearFault.clearFramer
  /-- R167 -/
  | srst : CommandEffect s .srst s.resetEngine

variable {s t : State}

/-- R182: what the acceptance adds to a rule's own effects. -/
theorem CommandEffect.of_accept {i : Instr} {rule : Result} (h : accept s rule = .next t)
    (hrule : s.ERR = .noFault → rule = .next t → CommandEffect s i t) : CommandEffect s i t := by
  rcases accept_next h with ⟨hf, rfl⟩ | ⟨hr, h⟩
  · exact .ignored i hf
  · exact hrule hr h

theorem CommandEffect.of_raise {i : Instr} {f : ErrCode} (hr : s.ERR = .noFault)
    (h : raise f (encode i) s = .next t) (hi : i ≠ .nop := by simp) (hf : f ≠ .noFault := by simp) :
    CommandEffect s i t :=
  raise_next.1 h ▸ .raised i f hr hi hf

theorem execSetcfg_effect {w r : BitVec 8} (h : execSetcfg w r s = .next t) : CommandEffect s (.setcfg w r) t := by
  refine .of_accept h fun hr h => ?_
  split at h
  · exact .of_raise hr h
  next hm =>
    split at h
    · exact .of_raise hr h
    next hw => cases h; exact .setcfg w r hr (not_not.1 hm) hw

theorem execKeyclr_effect (h : execKeyclr s = .next t) : CommandEffect s .keyclr t := by
  refine .of_accept h fun hr h => ?_
  split at h
  · exact .of_raise hr h
  next hm => cases h; exact .keyclr hr (not_not.1 hm)

theorem execKeypush_effect {b : Byte} (h : execKeypush b s = .next t) : CommandEffect s (.keypush b) t := by
  refine .of_accept h fun hr h => ?_
  split at h
  · exact .of_raise hr h
  next hm =>
    split at h
    · exact .of_raise hr h
    next hk => cases h; exact .keypush b hr (not_not.1 hm) hk

theorem execExpand_effect (h : execExpand s = .next t) : CommandEffect s .expand t := by
  refine .of_accept h fun hr h => ?_
  split at h
  · exact .of_raise hr h
  next hm =>
    split at h
    · exact .of_raise hr h
    next ws hws =>
      obtain ⟨key, hkey, h⟩ := need_next h
      cases h
      exact .expand ws key hr (not_not.1 hm) hws hkey

theorem dinIdle_effect {b : Byte} {ws : WordSize} (hr : s.ERR = .noFault) (hm : s.MODE = .idle)
    (hws : wordSize? s.W = some ws) (h : dinIdle ws b s = .next t) : CommandEffect s (.din b) t := by
  unfold dinIdle at h
  split at h
  · exact .of_raise hr h
  next hfull =>
    obtain ⟨s1, hs1, h⟩ := need_next h
    cases h
    obtain ⟨hlt, rfl⟩ := pushByte?_eq_some.1 hs1
    exact .dinStored b ws hr hws (fun _ => hfull) (absurd hm) hlt

/-- A byte pushed in a stream that completes no block. -/
theorem pushByte?_effect {b : Byte} {ws : WordSize} (hr : s.ERR = .noFault) (hm : s.MODE ≠ .idle)
    (hws : wordSize? s.W = some ws) (h : s.pushByte? b = some t) (hfull : t.BCNT.toNat ≠ ws.blockBytes) :
    CommandEffect s (.din b) t := by
  obtain ⟨hlt, rfl⟩ := pushByte?_eq_some.1 h
  exact .dinStored b ws hr hws (absurd · hm) (fun _ => bcnt_succ hlt ▸ hfull) hlt

theorem dinSenc_effect {b : Byte} {ws : WordSize} (hr : s.ERR = .noFault) (hm : s.MODE = .senc)
    (hws : wordSize? s.W = some ws) (h : dinSenc ws b s = .next t) : CommandEffect s (.din b) t := by
  obtain ⟨s1, hs1, h⟩ := need_next h
  split at h
  next hfull =>
    obtain ⟨hlt, rfl⟩ := pushByte?_eq_some.1 hs1
    obtain ⟨⟨out, s2⟩, hr2, h⟩ := need_next h
    obtain ⟨X, T, hX, hT, rfl, hs2⟩ := encryptBuf?_eq_some hr2
    cases h
    rw [hs2]
    exact .dinEncrypted b ws X T s2.A s2.B s2.k hr hm hws (bcnt_succ hlt ▸ hfull) hX hT
  next hfull =>
    cases h
    exact pushByte?_effect hr (by simp [hm]) hws hs1 hfull

theorem dinSdec_effect {b : Byte} {ws : WordSize} (hr : s.ERR = .noFault) (hm : s.MODE = .sdec)
    (hws : wordSize? s.W = some ws) (h : dinSdec ws b s = .next t) : CommandEffect s (.din b) t := by
  obtain ⟨s1, hs1, h⟩ := need_next h
  split at h
  next hfull =>
    obtain ⟨hlt, rfl⟩ := pushByte?_eq_some.1 hs1
    obtain ⟨H, hH, h⟩ := need_next h
    obtain ⟨⟨out, s2⟩, hr2, h⟩ := need_next h
    obtain ⟨X, T, hX, hT, rfl, hs2⟩ := decryptBuf?_eq_some hr2
    cases h
    rw [hs2]
    exact .dinHeld b ws X H T s2.A s2.B s2.k hr hm hws (bcnt_succ hlt ▸ hfull) hX hT hH
  next hfull =>
    cases h
    exact pushByte?_effect hr (by simp [hm]) hws hs1 hfull

theorem execDin_effect {b : Byte} (h : execDin b s = .next t) : CommandEffect s (.din b) t := by
  refine .of_accept h fun hr h => ?_
  split at h
  · exact .of_raise hr h
  next ws hws =>
    split at h
    next hm => exact dinIdle_effect hr hm hws h
    next hm => exact dinSenc_effect hr hm hws h
    next hm => exact dinSdec_effect hr hm hws h

/-- The checks of ENCB and DECB: past them the engine is idle with a valid table and a whole block. -/
theorem blockCommand_effect {i : Instr} {transform : WordSize → Option (List Byte × State)} (hi : i ≠ .nop)
    (h : blockCommand (encode i) transform s = .next t)
    (hrule : ∀ ws r, s.ERR = .noFault → s.MODE = .idle → s.TVALID = true → wordSize? s.W = some ws →
      s.BCNT.toNat = ws.blockBytes → transform ws = some r →
      CommandEffect s i { r.2.emit r.1 with BCNT := 0#5 }) : CommandEffect s i t := by
  refine .of_accept h fun hr h => ?_
  split at h
  · exact .of_raise hr h hi
  next hm =>
    split at h
    · exact .of_raise hr h hi
    next hv =>
      obtain ⟨ws, hws, h⟩ := withWordSize_next h
      split at h
      · exact .of_raise hr h hi
      next hb =>
        obtain ⟨r, hr2, h⟩ := need_next h
        cases h
        exact hrule ws r hr (not_not.1 hm) (Bool.eq_true_of_not_eq_false hv) hws (not_not.1 hb) hr2

theorem execEncb_effect (h : execEncb s = .next t) : CommandEffect s .encb t := by
  refine blockCommand_effect (by simp) h fun ws ⟨out, s2⟩ hr hm hv hws hb hr2 => ?_
  obtain ⟨X, T, hX, hT, rfl, hs2⟩ := encryptBuf?_eq_some hr2
  rw [hs2]
  exact .encb ws X T s2.A s2.B s2.k hr hm hv hws hb hX hT

theorem execDecb_effect (h : execDecb s = .next t) : CommandEffect s .decb t := by
  refine blockCommand_effect (by simp) h fun ws ⟨out, s2⟩ hr hm hv hws hb hr2 => ?_
  obtain ⟨X, T, hX, hT, rfl, hs2⟩ := decryptBuf?_eq_some hr2
  rw [hs2]
  exact .decb ws X T s2.A s2.B s2.k hr hm hv hws hb hX hT

theorem execSbegin_effect {dir : Direction} (h : execSbegin dir s = .next t) : CommandEffect s (.sbegin dir) t := by
  refine .of_accept h fun hr h => ?_
  split at h
  · exact .of_raise hr h
  next hm =>
    split at h
    · exact .of_raise hr h
    next hv =>
      split at h
      · exact .of_raise hr h
      next hb =>
        cases h
        exact .sbegin dir hr (not_not.1 hm) (Bool.eq_true_of_not_eq_false hv) (not_not.1 hb)

theorem sendSenc_effect (hr : s.ERR = .noFault) (hm : s.MODE = .senc) (h : sendSenc s = .next t) :
    CommandEffect s .send t := by
  unfold sendSenc at h
  split at h
  next howed =>
    obtain ⟨ws, hws, h⟩ := withWordSize_next h
    obtain ⟨⟨out, s2⟩, hr2, h⟩ := need_next h
    obtain ⟨X, T, hX, hT, rfl, hs2⟩ := encryptBuf?_eq_some hr2
    cases h
    rw [hs2]
    exact .sendPadded ws X T s2.A s2.B s2.k hr hm howed hws hX hT
  next howed =>
    cases h
    obtain ⟨hb, ha⟩ := not_or.1 howed
    exact .sendWhole hr hm (not_not.1 hb) (Bool.eq_true_of_not_eq_false ha)

theorem sendSdec_effect (hr : s.ERR = .noFault) (hm : s.MODE = .sdec) (h : sendSdec s = .next t) :
    CommandEffect s .send t := by
  unfold sendSdec at h
  split at h
  · exact .of_raise hr h
  next hb =>
    split at h
    next hv =>
      obtain ⟨ws, hws, h⟩ := withWordSize_next h
      obtain ⟨H, hH, h⟩ := need_next h
      cases h
      exact .sendReleased ws H hr hm (not_not.1 hb) hv hws hH
    next hv =>
      cases h
      exact .sendNothing hr hm (not_not.1 hb) (Bool.eq_false_of_not_eq_true hv)

theorem execSend_effect (h : execSend s = .next t) : CommandEffect s .send t := by
  refine .of_accept h fun hr h => ?_
  split at h
  · exact .of_raise hr h
  next hm => exact sendSenc_effect hr hm h
  next hm => exact sendSdec_effect hr hm h

/-- A command that answers a next state has had one of the effects listed. -/
theorem exec_effect {i : Instr} (h : exec i s = .next t) : CommandEffect s i t := by
  cases i with
  | nop => exact .of_accept h fun hr h => by cases h; exact .nop hr
  | setcfg w r => exact execSetcfg_effect h
  | keyclr => exact execKeyclr_effect h
  | keypush b => exact execKeypush_effect h
  | expand => exact execExpand_effect h
  | din b => exact execDin_effect h
  | encb => exact execEncb_effect h
  | decb => exact execDecb_effect h
  | sbegin dir => exact execSbegin_effect h
  | send => exact execSend_effect h
  | abort => cases h; exact .abort
  | srst => cases h; exact .srst

/-! ### What a host action and a step can do -/

/-- 70_reset_and_hazards.md R211: every way a host action can lead from `s` to a next state. -/
inductive ActionEffect (s : State) : HostAction → State → Prop
  | command {cmd : CmdWord} {i : Instr} {t : State} (legal : decode cmd = .ok i) (effect : CommandEffect s i t) :
      ActionEffect s (.command cmd) t
  | illegalIgnored {cmd : CmdWord} {e : Illegal} (illegal : decode cmd = .error e) (faulted : s.ERR ≠ .noFault) :
      ActionEffect s (.command cmd) s
  | illegalRaised {cmd : CmdWord} {e : Illegal} (illegal : decode cmd = .error e) (ready : s.ERR = .noFault) :
      ActionEffect s (.command cmd) (s.latchFault .illegalCommand cmd)
  | csrRead (n : BitVec 2) : ActionEffect s (.csrRead n) (s.observeCsr n)
  | assertReset : ActionEffect s .assertReset s.resetEngine

theorem execute_ok {cmd : CmdWord} {i : Instr} (h : decode cmd = .ok i) : execute cmd s = exec i s := by
  simp [execute, h]

theorem execute_error {cmd : CmdWord} {e : Illegal} (h : decode cmd = .error e) :
    execute cmd s = illegalCommand cmd s := by
  simp [execute, h]

theorem perform_effect {a : HostAction} (h : perform a s = .next t) : ActionEffect s a t := by
  cases a with
  | command cmd =>
    cases hd : decode cmd with
    | ok i => exact .command hd (exec_effect (execute_ok hd ▸ h))
    | error e =>
      rcases accept_next ((execute_error hd).symm.trans h) with ⟨hf, rfl⟩ | ⟨hr, h⟩
      · exact .illegalIgnored hd hf
      · exact raise_next.1 h ▸ .illegalRaised hd hr
  | csrRead n => cases h; exact .csrRead n
  | assertReset => cases h; exact .assertReset

theorem step_of_pending_nil (h : s.pending = []) : step s = .next s := by
  simp [step, takeAction?_nil h]

theorem step_of_pending_cons {a : HostAction} {rest : List HostAction} (h : s.pending = a :: rest) :
    step s = perform a { s with pending := rest } := by
  simp [step, takeAction?_cons h]

/-- What holds of a state whatever the host has in mind, and is kept by every host action, is kept by every step. -/
theorem step_keeps {P : State → Prop} (htake : ∀ s rest, P s → P { s with pending := rest })
    (haction : ∀ s a t, P s → ActionEffect s a t → P t) (hs : P s) (h : step s = .next t) : P t := by
  cases hp : s.pending with
  | nil => rw [step_of_pending_nil hp] at h; cases h; exact hs
  | cons a rest =>
    rw [step_of_pending_cons hp] at h
    exact haction _ a t (htake s rest hs) (perform_effect h)

/-! ### Command words of faults -/

/-- Only NOP has the word 0: an engine fault's ERRCMD is never 0. -/
theorem encode_ne_zero {i : Instr} (h : i ≠ .nop) : encode i ≠ 0#32 := by
  intro h0
  have h0 : (encode i).toNat = 0 := by rw [h0]; rfl
  cases i with
  | nop => exact h rfl
  | setcfg w r => simp only [encode, wordC_toNat] at h0; simp at h0
  | keypush b | din b => simp only [encode, wordB_toNat] at h0; simp at h0
  | sbegin dir => simp only [encode, wordM_toNat] at h0; simp at h0
  | keyclr | expand | encb | decb | send | abort | srst => simp [encode, wordZ_toNat] at h0

theorem ne_zero_of_decode_error {cmd : CmdWord} {e : Illegal} (h : decode cmd = .error e) : cmd ≠ 0#32 := by
  rintro rfl
  have hz : decode 0#32 = .ok .nop := by decide
  exact absurd (hz.symm.trans h) (by simp)

/-! ### The invariant of R40, one lemma per kind of update

An update that leaves a field of the invariant as it was takes that field over from `h`. -/

/-- The scratch registers, OUT, CSROUT, the host's list and the free values are outside the invariant. -/
theorem StateInv.unobserved (h : StateInv s) (a a' : Word) (i : BitVec 9) (j : BitVec 7) (k : BitVec 11)
    (out : List Byte) (csrout : List (BitVec 2 × BitVec 32)) (pending : List HostAction) (n : Nat) :
    StateInv { s with A := a, B := a', i := i, j := j, k := k, OUT := out, CSROUT := csrout, pending := pending,
                      freeCount := n } := { h with }

theorem StateInv.latchFault (h : StateInv s) {f : ErrCode} {cmd : CmdWord} (hf : f ≠ .noFault) (hc : cmd ≠ 0#32) :
    StateInv (s.latchFault f cmd) :=
  { h with
    noFaultNoWord := fun hn => absurd hn hf
    faultHasWord := fun _ => hc }

theorem StateInv.clearFault (h : StateInv s) : StateInv s.clearFault :=
  { h with
    noFaultNoWord := fun _ => rfl
    faultHasWord := fun hn => absurd rfl hn }

/-- BUF emptied, with any contents left behind. -/
theorem StateInv.emptyBuf (h : StateInv s) {m : Memory Byte} (hwf : m.wf = true) (hb : m.below Config.bufCells) :
    StateInv { s with BUF := m, BCNT := 0#5 } := by
  obtain ⟨wfK, wfL, wfS, -, wfH⟩ := h.canonical
  obtain ⟨inK, inL, inS, -, inH⟩ := h.inRange
  exact
    { h with
      bytesConfigured := fun hn => absurd rfl hn
      bytesFit := fun _ _ => Nat.zero_le _
      streamBytesFit := fun _ _ _ => Nat.zero_le _
      bufWritten := rfl
      canonical := ⟨wfK, wfL, wfS, hwf, wfH⟩
      inRange := ⟨inK, inL, inS, hb, inH⟩ }

/-- A byte appended to BUF where there is still room for it. -/
theorem StateInv.pushByte (h : StateInv s) (b : Byte) {ws : WordSize} (hws : wordSize? s.W = some ws)
    (hroom : s.BCNT.toNat + 1 ≤ ws.blockBytes) (hstream : s.MODE ≠ .idle → s.BCNT.toNat + 1 < ws.blockBytes) :
    StateInv { s with BUF := s.BUF.write s.BCNT.toNat b, BCNT := s.BCNT + 1#5 } := by
  have hcap := wordSize_blockBytes_le ws
  have hcnt : (s.BCNT + 1#5).toNat = s.BCNT.toNat + 1 := bcnt_succ (by omega)
  have hsize {ws' : WordSize} (hw : wordSize? s.W = some ws') : ws' = ws := Option.some.inj (hw.symm.trans hws)
  obtain ⟨X, hX⟩ := Memory.written_iff.1 h.bufWritten
  obtain ⟨wfK, wfL, wfS, wfB, wfH⟩ := h.canonical
  obtain ⟨inK, inL, inS, inB, inH⟩ := h.inRange
  exact
    { h with
      bytesConfigured := fun _ => cfgv_iff.2 ⟨ws, hws⟩
      bytesFit := fun ws' hw => by rw [hsize hw, hcnt]; exact hroom
      streamBytesFit := fun hm ws' hw => by
        rw [hsize hw, hcnt]
        exact Nat.le_sub_one_of_lt (hstream hm)
      bufWritten := hcnt ▸ Memory.written_iff.2 ⟨X ++ [b], Memory.readList_write_end b hX⟩
      canonical := ⟨wfK, wfL, wfS, Memory.wf_write _ _ wfB, wfH⟩
      inRange := ⟨inK, inL, inS, Memory.below_write _ (show s.BCNT.toNat < 16 by omega) inB, inH⟩ }

/-- A whole block put into HOLD in a decode stream. -/
theorem StateInv.holdBlock (h : StateInv s) (hm : s.MODE = .sdec) {ws : WordSize} (hws : wordSize? s.W = some ws)
    {Y : List Byte} (hY : Y.length = ws.blockBytes) :
    StateInv { s with HOLD := s.HOLD.writeList 0 Y, HVALID := true } := by
  have hcap := wordSize_blockBytes_le ws
  obtain ⟨wfK, wfL, wfS, wfB, wfH⟩ := h.canonical
  obtain ⟨inK, inL, inS, inB, inH⟩ := h.inRange
  exact
    { h with
      heldInDecode := fun _ => hm
      holdWritten := fun _ ws' hw => by
        obtain rfl : ws' = ws := Option.some.inj (hw.symm.trans hws)
        exact Memory.written_iff.2 ⟨Y, hY ▸ Memory.readList_writeList ..⟩
      canonical := ⟨wfK, wfL, wfS, wfB, Memory.wf_writeList _ _ wfH⟩
      inRange := ⟨inK, inL, inS, inB, Memory.below_writeList _ (show 0 + Y.length ≤ 16 by omega) inH⟩ }

/-- A stream opened with a valid table and an empty BUF. -/
theorem StateInv.openStream (h : StateInv s) {m : Mode} (hvalid : s.TVALID = true) (hempty : s.BCNT = 0#5) :
    StateInv { s with MODE := m, HVALID := false, SANY := false } :=
  { h with
    streamHasTable := fun _ => hvalid
    streamBytesFit := fun _ _ _ => by simp [hempty]
    heldInDecode := nofun
    emittedInEncode := nofun
    holdWritten := nofun }

/-- The framer returned to IDLE. -/
theorem StateInv.toIdle (h : StateInv s) : StateInv { s with MODE := .idle, HVALID := false, SANY := false } :=
  { h with
    streamHasTable := fun hn => absurd rfl hn
    streamBytesFit := fun hn => absurd rfl hn
    heldInDecode := nofun
    emittedInEncode := nofun
    holdWritten := nofun }

theorem StateInv.hvalid_eq_false (h : StateInv s) (hm : s.MODE ≠ .sdec) : s.HVALID = false :=
  Bool.eq_false_of_not_eq_true fun hv => hm (h.heldInDecode hv)

theorem StateInv.sany_eq_false (h : StateInv s) (hm : s.MODE ≠ .senc) : s.SANY = false :=
  Bool.eq_false_of_not_eq_true fun ha => hm (h.emittedInEncode ha)

theorem StateInv.setcfg (h : StateInv s) (hm : s.MODE = .idle) {w r : BitVec 8} (hw : wordSize? w ≠ none) :
    StateInv { s with W := w, R := r, TVALID := false, BCNT := 0#5 } :=
  { h with
    wLegal := .inr (not_not.1 (hw ∘ wordSize?_eq_none.2))
    tableConfigured := nofun
    streamHasTable := absurd hm
    bytesConfigured := fun hn => absurd rfl hn
    bytesFit := fun _ _ => Nat.zero_le _
    streamBytesFit := absurd hm
    tableWritten := nofun
    bufWritten := rfl
    holdWritten := fun hv => absurd hv (by simp [h.hvalid_eq_false, hm]) }

theorem StateInv.keyclr (h : StateInv s) (hm : s.MODE = .idle) : StateInv { s with KLEN := 0#8, TVALID := false } :=
  { h with
    tableConfigured := nofun
    streamHasTable := absurd hm
    keyWritten := rfl
    tableWritten := nofun }

theorem klen_succ {n : BitVec 8} (h : n ≠ 255#8) : (n + 1#8).toNat = n.toNat + 1 ∧ n.toNat < Config.keyCells := by
  have hlt : n.toNat < 255 := by bv_omega
  exact ⟨by bv_omega, hlt⟩

theorem StateInv.keypush (h : StateInv s) (hm : s.MODE = .idle) (b : Byte) (hk : s.KLEN ≠ 255#8) :
    StateInv { s with K := s.K.write s.KLEN.toNat b, KLEN := s.KLEN + 1#8, TVALID := false } := by
  obtain ⟨hsucc, hlt⟩ := klen_succ hk
  obtain ⟨key, hkey⟩ := Memory.written_iff.1 h.keyWritten
  obtain ⟨wfK, wfLSBH⟩ := h.canonical
  obtain ⟨inK, inLSBH⟩ := h.inRange
  exact
    { h with
      tableConfigured := nofun
      streamHasTable := absurd hm
      keyWritten := hsucc ▸ Memory.written_iff.2 ⟨key ++ [b], Memory.readList_write_end b hkey⟩
      tableWritten := nofun
      canonical := ⟨Memory.wf_write _ _ wfK, wfLSBH⟩
      inRange := ⟨Memory.below_write _ hlt inK, inLSBH⟩ }

/-- R113: after EXPAND the first `t` elements of S are Expand's words. -/
theorem installTable_expand_S (ws : WordSize) (key : List Byte) :
    (s.installTable ws (expand ws s.R.toNat key)).S.readList 0 (tableWords s.R.toNat) =
      some ((expand ws s.R.toNat key).S.map wordCell) := by
  have hlen : ((expand ws s.R.toNat key).S.map wordCell).length = tableWords s.R.toNat := by simp
  rw [State.installTable_S, ← hlen]
  exact Memory.readList_writeList ..

theorem StateInv.installTable (h : StateInv s) {ws : WordSize} (hws : wordSize? s.W = some ws) {key : List Byte}
    (hkey : s.key? = some key) : StateInv (s.installTable ws (expand ws s.R.toNat key)) := by
  have hL : keyWords ws key.length ≤ Config.keyWordCells :=
    keyWords_le ws (by rw [key?_eq_some hkey]; have := s.KLEN.isLt; omega)
  have hS : tableWords s.R.toNat ≤ Config.tableCells := tableWords_le (by have := s.R.isLt; omega)
  obtain ⟨wfK, wfL, wfS, wfBH⟩ := h.canonical
  obtain ⟨inK, inL, inS, inBH⟩ := h.inRange
  exact
    { h with
      tableConfigured := fun _ => cfgv_iff.2 ⟨ws, hws⟩
      streamHasTable := fun _ => rfl
      tableWritten := fun _ => Memory.written_iff.2 ⟨_, installTable_expand_S ws key⟩
      canonical := ⟨wfK, Memory.wf_writeList _ _ wfL, Memory.wf_writeList _ _ wfS, wfBH⟩
      inRange := ⟨inK, Memory.below_writeList _ (by simpa using hL) inL,
        Memory.below_writeList _ (by simpa using hS) inS, inBH⟩ }

theorem StateInv.reset : StateInv State.reset where
  wLegal := .inl rfl
  tableConfigured := nofun
  streamHasTable := fun hn => absurd rfl hn
  bytesConfigured := fun hn => absurd rfl hn
  bytesFit := fun _ _ => Nat.zero_le _
  streamBytesFit := fun hn => absurd rfl hn
  heldInDecode := nofun
  emittedInEncode := nofun
  noFaultNoWord := fun _ => rfl
  faultHasWord := fun hn => absurd rfl hn
  keyWritten := rfl
  tableWritten := nofun
  bufWritten := rfl
  holdWritten := nofun
  canonical := ⟨rfl, rfl, rfl, rfl, rfl⟩
  inRange := ⟨Memory.below_nil _, Memory.below_nil _, Memory.below_nil _, Memory.below_nil _, Memory.below_nil _⟩

/-- A reset state differs from the first one only outside the invariant. -/
theorem StateInv.resetEngine : StateInv s.resetEngine :=
  StateInv.reset.unobserved ..

/-- BUF emptied with the zeros of the padding left behind. -/
theorem StateInv.emptyPadded (h : StateInv s) {ws : WordSize} (hws : wordSize? s.W = some ws) :
    StateInv { s with BUF := (s.padBuf ws).BUF, BCNT := 0#5 } := by
  have hcap := wordSize_blockBytes_le ws
  have hfit := h.bytesFit ws hws
  obtain ⟨-, -, -, wfB, -⟩ := h.canonical
  obtain ⟨-, -, -, inB, -⟩ := h.inRange
  refine h.emptyBuf (Memory.wf_writeList _ _ wfB) (Memory.below_writeList _ ?_ inB)
  show s.BCNT.toNat + (List.replicate _ _).length ≤ 16
  simp only [List.length_replicate]
  omega

/-- BUF emptied with the byte that completed a block left behind. -/
theorem StateInv.emptyPushed (h : StateInv s) (b : Byte) {ws : WordSize} (hfull : s.BCNT.toNat + 1 = ws.blockBytes) :
    StateInv { s with BUF := s.BUF.write s.BCNT.toNat b, BCNT := 0#5 } := by
  have hcap := wordSize_blockBytes_le ws
  obtain ⟨-, -, -, wfB, -⟩ := h.canonical
  obtain ⟨-, -, -, inB, -⟩ := h.inRange
  exact h.emptyBuf (Memory.wf_write _ _ wfB) (Memory.below_write _ (show s.BCNT.toNat < 16 by omega) inB)

/-- BUF emptied, its bytes left as they are. -/
theorem StateInv.emptyKept (h : StateInv s) : StateInv { s with BCNT := 0#5 } := by
  obtain ⟨-, -, -, wfB, -⟩ := h.canonical
  obtain ⟨-, -, -, inB, -⟩ := h.inRange
  exact h.emptyBuf wfB inB

/-! ### The invariant of R40 is kept -/

theorem CommandEffect.keeps_inv {i : Instr} (h : StateInv s) (e : CommandEffect s i t) : StateInv t := by
  cases e with
  | ignored | nop => exact h
  | raised i f _ hi hf => exact h.latchFault hf (encode_ne_zero hi)
  | setcfg w r _ hm hw => exact h.setcfg hm hw
  | keyclr _ hm => exact h.keyclr hm
  | keypush b _ hm hk => exact h.keypush hm b hk
  | expand ws key _ _ hws hkey => exact h.installTable hws hkey
  | dinStored b ws _ hws hnotFull hincomplete =>
    by_cases hm : s.MODE = .idle
    · have := h.bytesFit ws hws
      have := hnotFull hm
      exact h.pushByte b hws (by omega) (absurd hm)
    · have := h.streamBytesFit hm ws hws
      have := hincomplete hm
      have := wordSize_blockBytes_pos ws
      exact h.pushByte b hws (by omega) fun _ => by omega
  | dinEncrypted b ws X T a a' k _ hm hws hfull =>
    exact { h.emptyPushed b hfull with emittedInEncode := fun _ => hm }
  | dinHeld b ws X H T a a' k _ hm hws hfull =>
    exact ((h.emptyPushed b hfull).holdBlock hm hws (decBlock_length ..)).unobserved ..
  | encb | decb => exact h.emptyKept.unobserved ..
  | sbegin dir _ _ hv hb => exact h.openStream hv hb
  | sendPadded ws X T a a' k _ hm _ hws =>
    have hheld := h.hvalid_eq_false (by simp [hm])
    exact hheld ▸ ((h.emptyPadded hws).toIdle).unobserved ..
  | sendWhole _ hm =>
    have hheld := h.hvalid_eq_false (by simp [hm])
    exact hheld ▸ h.toIdle
  | sendReleased ws H _ hm =>
    have hany := h.sany_eq_false (by simp [hm])
    exact hany ▸ h.toIdle.unobserved ..
  | sendNothing _ hm _ hheld =>
    have hany := h.sany_eq_false (by simp [hm])
    exact hany ▸ hheld ▸ h.toIdle
  | abort => exact h.clearFault.emptyKept.toIdle
  | srst => exact StateInv.resetEngine

theorem ActionEffect.keeps_inv {a : HostAction} (h : StateInv s) (e : ActionEffect s a t) : StateInv t := by
  cases e with
  | command _ effect => exact effect.keeps_inv h
  | illegalIgnored => exact h
  | illegalRaised hd => exact h.latchFault (by simp) (ne_zero_of_decode_error hd)
  | csrRead n => exact h.unobserved ..
  | assertReset => exact StateInv.resetEngine

/-! ### The table matches the key while TVALID is set, R26 -/

theorem tableMatchesKey_of_not_tvalid (h : s.TVALID = false) : TableMatchesKey s :=
  fun hv => absurd hv (by simp [h])

/-- The invariant speaks of W, R, K, KLEN, S and TVALID only. -/
theorem TableMatchesKey.congr (h : TableMatchesKey s) (hW : t.W = s.W) (hR : t.R = s.R) (hK : t.K = s.K)
    (hKLEN : t.KLEN = s.KLEN) (hS : t.S = s.S) (hTVALID : t.TVALID = s.TVALID) : TableMatchesKey t := by
  unfold TableMatchesKey State.key? at *
  rwa [hW, hR, hK, hKLEN, hS, hTVALID]

theorem TableMatchesKey.installTable {ws : WordSize} (hws : wordSize? s.W = some ws) {key : List Byte}
    (hkey : s.key? = some key) : TableMatchesKey (s.installTable ws (expand ws s.R.toNat key)) :=
  fun _ => ⟨ws, key, hws, hkey, installTable_expand_S ws key⟩

theorem CommandEffect.keeps_tableMatchesKey {i : Instr} (h : TableMatchesKey s) (e : CommandEffect s i t) :
    TableMatchesKey t := by
  cases e with
  | setcfg | keyclr | keypush | srst => exact tableMatchesKey_of_not_tvalid rfl
  | expand ws key _ _ hws hkey => exact .installTable hws hkey
  | _ => exact h.congr rfl rfl rfl rfl rfl rfl

theorem ActionEffect.keeps_tableMatchesKey {a : HostAction} (h : TableMatchesKey s) (e : ActionEffect s a t) :
    TableMatchesKey t := by
  cases e with
  | command _ effect => exact effect.keeps_tableMatchesKey h
  | assertReset => exact tableMatchesKey_of_not_tvalid rfl
  | _ => exact h.congr rfl rfl rfl rfl rfl rfl

/-! ### Emitted bytes, R41 -/

theorem CommandEffect.out_prefix {i : Instr} (e : CommandEffect s i t) : s.OUT <+: t.OUT := by
  cases e with
  | dinEncrypted | dinHeld | encb | decb | sendPadded | sendReleased => exact List.prefix_append ..
  | _ => exact List.prefix_rfl

theorem ActionEffect.out_prefix {a : HostAction} (e : ActionEffect s a t) : s.OUT <+: t.OUT := by
  cases e with
  | command _ effect => exact effect.out_prefix
  | _ => exact List.prefix_rfl

/-! ### CSRs as numbers -/

theorem mode_code_toNat (m : Mode) :
    m.code.toNat = (match m with | .idle => 0 | .senc => 1 | .sdec => 2) := by cases m <;> rfl

theorem errCode_code_toNat (f : ErrCode) :
    f.code.toNat = (match f with
      | .noFault => 0 | .configurationError => 1 | .inputShapeError => 2 | .sequenceError => 3
      | .illegalCommand => 4) := by cases f <;> rfl

theorem cfgv_toNat (s : State) :
    s.cfgv.toNat = if s.W = 16#8 ∨ s.W = 32#8 ∨ s.W = 64#8 then 1 else 0 := by
  cases h : s.cfgv with
  | false => rw [if_neg (wordSize?_eq_none.1 (cfgv_false_iff.1 h))]; rfl
  | true =>
    have hw : wordSize? s.W ≠ none := Option.isSome_iff_ne_none.1 h
    rw [if_pos (not_not.1 (hw ∘ wordSize?_eq_none.2))]; rfl

/-- R36: STATUS as the sum of its fields. -/
theorem status_toNat (s : State) :
    s.status.toNat = s.MODE.code.toNat + 4 * s.cfgv.toNat + 8 * s.TVALID.toNat + 16 * s.HVALID.toNat +
      32 * s.SANY.toNat + 256 * s.BCNT.toNat + 65536 * s.ERR.code.toNat := by
  simp only [State.status, toNat_append_add, BitVec.toNat_ofBool, BitVec.toNat_ofNat]
  omega

theorem csrRead_status (s : State) : s.csrRead 0#2 = s.status := rfl
theorem csrRead_cfg (s : State) : s.csrRead 1#2 = s.cfgCsr := rfl
theorem csrRead_klen (s : State) : s.csrRead 2#2 = s.klenCsr := rfl
theorem csrRead_errcmd (s : State) : s.csrRead 3#2 = s.ERRCMD := rfl

/-- Two states with the same four CSRs read the same at every index. -/
theorem csrRead_congr {s s' : State} (hstatus : s.status = s'.status) (hcfg : s.cfgCsr = s'.cfgCsr)
    (hklen : s.klenCsr = s'.klenCsr) (herr : s.ERRCMD = s'.ERRCMD) (n : BitVec 2) : s.csrRead n = s'.csrRead n := by
  simp only [State.csrRead, hstatus, hcfg, hklen, herr]

theorem csrRead_reset (n : BitVec 2) : State.reset.csrRead n = 0#32 := by
  have hstatus : State.reset.status = 0#32 := by decide
  have hcfg : State.reset.cfgCsr = 0#32 := by decide
  have hklen : State.reset.klenCsr = 0#32 := by decide
  have herr : State.reset.ERRCMD = 0#32 := rfl
  simp only [State.csrRead, hstatus, hcfg, hklen, herr, ite_self]

/-! ### The table word of the host -/

theorem decodeTableWord_eq_some {nbits w : Nat} {i : Instr} :
    decodeTableWord nbits w = some i ↔ decode (tableCmdWord nbits w) = .ok i := by
  unfold decodeTableWord
  cases decode (tableCmdWord nbits w) <;> simp

theorem step_of_command {cmd : CmdWord} {rest : List HostAction} {i : Instr} (hp : s.pending = .command cmd :: rest)
    (hd : decode cmd = .ok i) : step s = exec i { s with pending := rest } :=
  (step_of_pending_cons hp).trans (execute_ok hd)

end Sys2Proof.Machine

open Sys2Proof Sys2Proof.Machine

/-- Settles O58, by the effects of the host actions, each of which keeps the invariant. -/
theorem stepKeepsTheInvariant : Obligations.StepKeepsTheInvariant := fun _ _ hs h =>
  step_keeps (fun _ _ h => h.unobserved ..) (fun _ _ _ h e => e.keeps_inv h) hs h

/-- Settles O59: SETCFG, KEYCLR, KEYPUSH and reset make the table stale, EXPAND installs it, and nothing else touches
what the invariant speaks of. -/
theorem stepKeepsTableMatchesKey : Obligations.StepKeepsTableMatchesKey := fun _ _ _ hm h =>
  step_keeps (fun _ _ h => h.congr rfl rfl rfl rfl rfl rfl) (fun _ _ _ h e => e.keeps_tableMatchesKey h) hm h

/-- Settles O34, by the effects of the commands. -/
theorem onlyExpandWritesTheTable : Obligations.OnlyExpandWritesTheTable := by
  intro s t i h hsrst
  cases exec_effect h with
  | srst => exact absurd rfl hsrst
  | expand => exact ⟨fun hi => absurd rfl hi, fun _ => rfl⟩
  | keypush b => exact ⟨fun _ => ⟨rfl, rfl⟩, fun hi => absurd rfl (hi b)⟩
  | _ => exact ⟨fun _ => ⟨rfl, rfl⟩, fun _ => rfl⟩

/-- Settles O35: OUT changes only by appending. -/
theorem outputIsAppendOnly : Obligations.OutputIsAppendOnly := fun s _ h =>
  step_keeps (P := fun u => s.OUT <+: u.OUT) (fun _ _ h => h) (fun _ _ _ h e => h.trans e.out_prefix)
    List.prefix_rfl h

/-- Settles O7, by taking the command off the host's list. -/
theorem stepRunsThePresentedCommand : Obligations.StepRunsThePresentedCommand :=
  ⟨fun _ _ _ _ hp hd => step_of_command hp hd,
    fun s nbits w _ hd => step_of_command (s := s.withFetchWord nbits w) rfl (decodeTableWord_eq_some.1 hd)⟩

/-- Settles O27, the concatenated fields as a sum. -/
theorem csrReadValues : Obligations.CsrReadValues := by
  intro s
  refine ⟨?_, ?_, ?_, csrRead_errcmd s⟩
  · have hstatus := status_toNat s
    rw [mode_code_toNat, cfgv_toNat, errCode_code_toNat] at hstatus
    exact (congrArg BitVec.toNat (csrRead_status s)).trans hstatus
  · rw [csrRead_cfg, State.cfgCsr, toNat_append_add, toNat_append_add, BitVec.toNat_ofNat]
    omega
  · rw [csrRead_klen, State.klenCsr, toNat_append_add, BitVec.toNat_ofNat]
    omega

/-- Settles O29: each CSR is a function of the registers named. -/
theorem csrReadsRevealNoSecret : Obligations.CsrReadsRevealNoSecret := by
  intro s s' hW hR hKLEN hTVALID hBCNT hHVALID hMODE hSANY hERR hERRCMD
  refine csrRead_congr ?_ ?_ ?_ hERRCMD
  · simp only [State.status, State.cfgv, hW, hTVALID, hBCNT, hHVALID, hMODE, hSANY, hERR]
  · simp only [State.cfgCsr, hW, hR]
  · simp only [State.klenCsr, hKLEN]

/-- Settles O56, each command run at the reset state. -/
theorem resetLeavesTheEngineUnconfigured : Obligations.ResetLeavesTheEngineUnconfigured := by
  refine ⟨by decide, csrRead_reset, ?_, ?_, fun _ => ⟨rfl, rfl, rfl, rfl, rfl⟩⟩
  · rintro i (rfl | ⟨b, rfl⟩ | rfl | rfl | ⟨dir, rfl⟩ | rfl) <;> rfl
  · rintro i (rfl | ⟨r, rfl | rfl | rfl⟩ | rfl | ⟨b, rfl⟩ | rfl | rfl) <;> exact ⟨_, rfl, rfl⟩

/-- Settles O57: no table is valid after reset. -/
theorem resetMeetsTheInvariants : Obligations.ResetMeetsTheInvariants :=
  ⟨StateInv.reset, tableMatchesKey_of_not_tvalid rfl⟩

end

section
/-! ## Proofs of the statements about bytes, words and memory, 20_memory.md

WordLE and MemWrite spread a number over the same little-endian bytes (`leBytes`); that `leNat` and `leBytes` undo each
other is said once, of numbers of any length, and the statements are cases of it. -/

namespace Sys2Proof.Machine

open Sys2Proof

/-! ### A number and its little-endian bytes -/

/-- R52, R54: the `n` bytes that WordLE and MemWrite make of `v`. -/
def leBytes (n v : Nat) : List Byte := (List.range n).map fun q => BitVec.ofNat 8 (v / 2 ^ (8 * q))

theorem wordLE_eq_leBytes {w : Nat} (v : BitVec w) (u : Nat) : wordLE v u = leBytes u v.toNat := rfl

theorem memWrite_eq_writeList (m : Memory Byte) (a n v : Nat) : memWrite m a n v = m.writeList a (leBytes n v) := rfl

@[simp] theorem leBytes_length (n v : Nat) : (leBytes n v).length = n := by simp [leBytes]

theorem leBytes_getElem? {n q : Nat} (v : Nat) (h : q < n) :
    (leBytes n v)[q]? = some (BitVec.ofNat 8 (v / 2 ^ (8 * q))) := by
  simp [leBytes, h]

theorem two_pow_eight_mul_succ (n : Nat) : 2 ^ (8 * (n + 1)) = 256 * 2 ^ (8 * n) := by
  rw [Nat.mul_succ, Nat.pow_add, Nat.mul_comm]

@[simp] theorem leBytes_zero (v : Nat) : leBytes 0 v = [] := rfl

/-- The low byte first, then the bytes of the rest. -/
theorem leBytes_succ (n v : Nat) : leBytes (n + 1) v = BitVec.ofNat 8 v :: leBytes n (v / 256) := by
  simp [leBytes, List.range_succ_eq_map, two_pow_eight_mul_succ, Nat.div_div_eq_div_mul]

theorem leNat_lt (X : List Byte) : leNat X < 2 ^ (8 * X.length) := by
  induction X with
  | nil => decide
  | cons x xs ih =>
    have hx := x.isLt
    rw [leNat, List.length_cons, two_pow_eight_mul_succ]
    omega

/-- The bytes of a number are worth the number, as far as they go. -/
theorem leNat_leBytes (n v : Nat) : leNat (leBytes n v) = v % 2 ^ (8 * n) := by
  induction n generalizing v with
  | zero => simp [leNat, Nat.mod_one]
  | succ n ih =>
    rw [leBytes_succ, leNat, ih, BitVec.toNat_ofNat, two_pow_eight_mul_succ, Nat.mod_mul]

/-- A list of bytes is the bytes of its number. -/
theorem leBytes_leNat (X : List Byte) : leBytes X.length (leNat X) = X := by
  induction X with
  | nil => rfl
  | cons x xs ih =>
    have hx := x.isLt
    have hlow : BitVec.ofNat 8 (x.toNat + 256 * leNat xs) = x :=
      BitVec.eq_of_toNat_eq (by rw [BitVec.toNat_ofNat]; omega)
    have hrest : (x.toNat + 256 * leNat xs) / 256 = leNat xs := by omega
    rw [leNat, List.length_cons, leBytes_succ, hlow, hrest, ih]

/-- The sum of R52, in which a byte beyond the end of the list counts as zero. -/
theorem leNat_take_eq_sum (X : List Byte) (n : Nat) :
    leNat (X.take n) = ∑ q ∈ Finset.range n, (X.getD q 0#8).toNat * 2 ^ (8 * q) := by
  induction X generalizing n with
  | nil => simp [leNat]
  | cons x xs ih =>
    cases n with
    | zero => rfl
    | succ n =>
      rw [List.take_succ_cons, leNat, ih, Finset.sum_range_succ', Finset.mul_sum, Nat.add_comm]
      simp [two_pow_eight_mul_succ, Nat.mul_left_comm]

/-! ### Groups of bytes -/

theorem slice_length {α : Type} {X : List α} {a n : Nat} (h : a + n ≤ X.length) : (slice X a n).length = n := by
  simp only [slice, List.length_take, List.length_drop]
  omega

theorem slice_zero {α : Type} (X : List α) (n : Nat) : slice X 0 n = X.take n := rfl

theorem leNat_slice_eq_sum (X : List Byte) (a n : Nat) :
    leNat (slice X a n) = ∑ q ∈ Finset.range n, (X.getD (a + q) 0#8).toNat * 2 ^ (8 * q) := by
  simp [slice, leNat_take_eq_sum, List.getD_eq_getElem?_getD]

/-- A word's bytes are worth less than `2^w`, so LEWord is exact. -/
theorem leWord_toNat (ws : WordSize) (X : List Byte) (a : Nat) :
    (leWord ws.bits X a ws.bytes).toNat = leNat (slice X a ws.bytes) := by
  have hlen : (slice X a ws.bytes).length ≤ ws.bytes := List.length_take_le ..
  have hlt : leNat (slice X a ws.bytes) < 2 ^ ws.bits :=
    calc leNat (slice X a ws.bytes) < 2 ^ (8 * (slice X a ws.bytes).length) := leNat_lt _
      _ ≤ 2 ^ ws.bits := Nat.pow_le_pow_right (by decide) (by rw [wordSize_bits_eq]; omega)
  rw [leWord, BitVec.toNat_ofNat, Nat.mod_eq_of_lt hlt]

theorem leWord_wordLE (ws : WordSize) (v : BitVec ws.bits) : leWord ws.bits (wordLE v ws.bytes) 0 ws.bytes = v := by
  apply BitVec.eq_of_toNat_eq
  rw [leWord_toNat, slice_zero, List.take_of_length_le (by simp), wordLE_eq_leBytes, leNat_leBytes, ← wordSize_bits_eq,
    Nat.mod_eq_of_lt v.isLt]

theorem wordLE_leWord (ws : WordSize) {X : List Byte} {a : Nat} (h : a + ws.bytes ≤ X.length) :
    wordLE (leWord ws.bits X a ws.bytes) ws.bytes = slice X a ws.bytes := by
  have hbytes := leBytes_leNat (slice X a ws.bytes)
  rwa [slice_length h, ← leWord_toNat] at hbytes

/-! ### MemRead and MemWrite -/

theorem memRead_memWrite (m : Memory Byte) (a n v : Nat) :
    memRead (memWrite m a n v) a n = some (v % 2 ^ (8 * n)) := by
  have hback := Memory.readList_writeList m a (leBytes n v)
  rw [leBytes_length] at hback
  rw [memRead, memWrite_eq_writeList, hback, Option.map_some, leNat_leBytes]

theorem read_memWrite {q n : Nat} (m : Memory Byte) (a v : Nat) (h : q < n) :
    (memWrite m a n v).read (a + q) = some (BitVec.ofNat 8 (v / 2 ^ (8 * q))) := by
  rw [memWrite_eq_writeList, Memory.read_writeList, if_pos (by rw [leBytes_length]; omega), Nat.add_sub_cancel_left,
    leBytes_getElem? v h]

theorem read_memWrite_other {a n b : Nat} (m : Memory Byte) (v : Nat) (h : ¬ (a ≤ b ∧ b < a + n)) :
    (memWrite m a n v).read b = m.read b := by
  rw [memWrite_eq_writeList, Memory.read_writeList_other]
  rwa [leBytes_length]

end Sys2Proof.Machine

open Sys2Proof Sys2Proof.Machine

/-- Settles O42: a word of `w = 8*u` bits is its `u` bytes, and they are it. -/
theorem littleEndianConversions : Obligations.LittleEndianConversions := fun ws =>
  ⟨leWord_wordLE ws,
    fun _ hX => wordLE_leWord ws (a := 0) (by omega),
    fun X a _ => (leWord_toNat ws X a).trans (leNat_slice_eq_sum X a ws.bytes)⟩

/-- Settles O43, by the run of bytes that MemWrite stores. -/
theorem memReadAfterMemWrite : Obligations.MemReadAfterMemWrite := fun m a n v =>
  ⟨memRead_memWrite m a n v, fun _ hq => read_memWrite m a v hq, fun _ hb => read_memWrite_other m v hb⟩

end

section
/-! ## Proofs of the statements about the encoding, 30_encoding.md

What the decoder can answer is said once (`Decoded`). A row of the opcode map admits the words of its command, and no
others; row by row they are ranges of numbers, one after another, and so can be counted. -/

namespace Sys2Proof

/-! ### Fields as numbers -/

@[simp] theorem opcField_toNat (cmd : CmdWord) : (opcField cmd).toNat = cmd.toNat / 2 ^ 24 := by
  rw [opcField, field_toNat]; omega

@[simp] theorem lowByte_toNat (cmd : CmdWord) : (lowByte cmd).toNat = cmd.toNat % 2 ^ 8 := by
  rw [lowByte, field_toNat, pow_zero, Nat.div_one]

@[simp] theorem roundsField_toNat (cmd : CmdWord) : (roundsField cmd).toNat = cmd.toNat / 2 ^ 8 % 2 ^ 8 :=
  field_toNat cmd 8 8

@[simp] theorem dirBit_dirField_toNat (cmd : CmdWord) : (dirBit (dirField cmd)).toNat = cmd.toNat % 2 := by
  have hbit : dirBit (dirField cmd) = cmd.extractLsb' 0 1 := by
    unfold dirField
    split
    case isTrue h => exact h.symm
    case isFalse h => exact ((BitVec.eq_zero_or_eq_one _).resolve_left h).symm
  rw [hbit, field_toNat, pow_zero, Nat.div_one, pow_one]

/-! ### A word from its fields, when everything above the operands is the opcode -/

section
variable {cmd : CmdWord} {opc : BitVec 8}

theorem toNat_div_of_reserved {n m : Nat} (hnm : n + m = 24) (hopc : opcField cmd = opc)
    (hreserved : cmd.extractLsb' n m = 0#m) : cmd.toNat / 2 ^ n = opc.toNat * 2 ^ m := by
  have hzero : cmd.toNat / 2 ^ n % 2 ^ m = 0 := by rw [← field_toNat, hreserved, BitVec.toNat_ofNat, Nat.zero_mod]
  rw [← hopc, opcField_toNat, ← hnm, pow_add, ← Nat.div_div_eq_div_mul,
    Nat.div_mul_cancel (Nat.dvd_of_mod_eq_zero hzero)]

theorem wordZ_eq (h : cmd.toNat / 2 ^ 0 = opc.toNat * 2 ^ 24) : wordZ opc = cmd := by
  apply BitVec.eq_of_toNat_eq
  rw [wordZ_toNat, ← h, pow_zero, Nat.div_one]

theorem wordB_lowByte (h : cmd.toNat / 2 ^ 8 = opc.toNat * 2 ^ 16) : wordB opc (lowByte cmd) = cmd := by
  apply BitVec.eq_of_toNat_eq
  rw [wordB_toNat, lowByte_toNat]
  omega

theorem wordC_roundsField_lowByte (h : cmd.toNat / 2 ^ 16 = opc.toNat * 2 ^ 8) :
    wordC opc (roundsField cmd) (lowByte cmd) = cmd := by
  apply BitVec.eq_of_toNat_eq
  rw [wordC_toNat, roundsField_toNat, lowByte_toNat]
  omega

theorem wordM_dirField (h : cmd.toNat / 2 ^ 1 = opc.toNat * 2 ^ 23) : wordM opc (dirBit (dirField cmd)) = cmd := by
  apply BitVec.eq_of_toNat_eq
  rw [wordM_toNat, dirBit_dirField_toNat]
  omega

end

/-! ### Words of the encoder -/

theorem encode_lt (i : Instr) : (encode i).toNat < 0x0C000000 := by
  cases i with
  | setcfg w r => rw [encode, wordC_toNat, BitVec.toNat_ofNat]; omega
  | keypush b | din b => rw [encode, wordB_toNat, BitVec.toNat_ofNat]; omega
  | sbegin dir => rw [encode, wordM_toNat, BitVec.toNat_ofNat]; omega
  | nop | keyclr | expand | encb | decb | send | abort | srst => decide

theorem opcField_wordC (opc r w : BitVec 8) : opcField (wordC opc r w) = opc := by
  apply BitVec.eq_of_toNat_eq; rw [opcField_toNat, wordC_toNat]; omega

theorem formatC_wordC (opc r w : BitVec 8) : formatC (wordC opc r w) = .ok (.setcfg w r) := by
  have hreserved : (wordC opc r w).extractLsb' 16 8 = 0#8 := by
    apply BitVec.eq_of_toNat_eq; rw [field_toNat, wordC_toNat, BitVec.toNat_ofNat]; omega
  have hlow : lowByte (wordC opc r w) = w := by
    apply BitVec.eq_of_toNat_eq; rw [lowByte_toNat, wordC_toNat]; omega
  have hrounds : roundsField (wordC opc r w) = r := by
    apply BitVec.eq_of_toNat_eq; rw [roundsField_toNat, wordC_toNat]; omega
  rw [formatC, if_pos hreserved, hlow, hrounds]

theorem opcField_wordB (opc b : BitVec 8) : opcField (wordB opc b) = opc := by
  apply BitVec.eq_of_toNat_eq; rw [opcField_toNat, wordB_toNat]; omega

theorem formatB_wordB (opc b : BitVec 8) (f : Byte → Instr) : formatB (wordB opc b) f = .ok (f b) := by
  have hreserved : (wordB opc b).extractLsb' 8 16 = 0#16 := by
    apply BitVec.eq_of_toNat_eq; rw [field_toNat, wordB_toNat, BitVec.toNat_ofNat]; omega
  have hlow : lowByte (wordB opc b) = b := by
    apply BitVec.eq_of_toNat_eq; rw [lowByte_toNat, wordB_toNat]; omega
  rw [formatB, if_pos hreserved, hlow]

theorem decode_encode (i : Instr) : decode (encode i) = .ok i := by
  cases i with
  | setcfg w r => simp [encode, decode, opcField_wordC, formatC_wordC]
  | keypush b | din b => simp [encode, decode, opcField_wordB, formatB_wordB]
  | sbegin dir => cases dir <;> decide
  | nop | keyclr | expand | encb | decb | send | abort | srst => decide

/-! ### What the decoder can answer -/

/-- R78, R77: a word is the word of the instruction it decodes to; it is refused for a reserved bit only with an opcode
below 0x0C, and for its opcode only with one of 0x0C or above. -/
inductive Decoded (cmd : CmdWord) : Except Illegal Instr → Prop
  | command (i : Instr) (word : encode i = cmd) : Decoded cmd (.ok i)
  | reserved (assigned : cmd.toNat < 0x0C000000) : Decoded cmd (.error .reservedBits)
  | unassigned (above : 0x0C000000 ≤ cmd.toNat) : Decoded cmd (.error .unassignedOpcode)

section
variable {cmd : CmdWord} {opc : BitVec 8}

/-- A format check with an assigned opcode answers the command whose word it read, or refuses a reserved bit. -/
theorem Decoded.ite {p : Prop} [Decidable p] {i : Instr} (hopc : opcField cmd = opc) (hassigned : opc.toNat < 0x0C)
    (hword : p → encode i = cmd) : Decoded cmd (if p then .ok i else .error .reservedBits) := by
  split
  case isTrue hp => exact .command i (hword hp)
  case isFalse =>
    rw [← hopc, opcField_toNat] at hassigned
    exact .reserved (by omega)

theorem formatZ_decoded {i : Instr} (hopc : opcField cmd = opc) (hassigned : opc.toNat < 0x0C)
    (hi : encode i = wordZ opc) : Decoded cmd (formatZ cmd i) :=
  .ite hopc hassigned fun hreserved => hi.trans (wordZ_eq (toNat_div_of_reserved rfl hopc hreserved))

theorem formatB_decoded {f : Byte → Instr} (hopc : opcField cmd = opc) (hassigned : opc.toNat < 0x0C)
    (hf : ∀ b, encode (f b) = wordB opc b) : Decoded cmd (formatB cmd f) :=
  .ite hopc hassigned fun hreserved => (hf _).trans (wordB_lowByte (toNat_div_of_reserved rfl hopc hreserved))

theorem formatC_decoded (hopc : opcField cmd = 0x01#8) : Decoded cmd (formatC cmd) :=
  .ite hopc (by decide) fun hreserved => wordC_roundsField_lowByte (toNat_div_of_reserved rfl hopc hreserved)

theorem formatM_decoded (hopc : opcField cmd = 0x08#8) : Decoded cmd (formatM cmd) :=
  .ite hopc (by decide) fun hreserved => wordM_dirField (toNat_div_of_reserved rfl hopc hreserved)

end

theorem decode_decoded (cmd : CmdWord) : Decoded cmd (decode cmd) := by
  unfold decode
  refine iteInduction (fun h => formatZ_decoded h (by decide) rfl) fun h0 => ?_
  refine iteInduction (fun h => formatC_decoded h) fun h1 => ?_
  refine iteInduction (fun h => formatZ_decoded h (by decide) rfl) fun h2 => ?_
  refine iteInduction (fun h => formatB_decoded h (by decide) fun _ => rfl) fun h3 => ?_
  refine iteInduction (fun h => formatZ_decoded h (by decide) rfl) fun h4 => ?_
  refine iteInduction (fun h => formatB_decoded h (by decide) fun _ => rfl) fun h5 => ?_
  refine iteInduction (fun h => formatZ_decoded h (by decide) rfl) fun h6 => ?_
  refine iteInduction (fun h => formatZ_decoded h (by decide) rfl) fun h7 => ?_
  refine iteInduction (fun h => formatM_decoded h) fun h8 => ?_
  refine iteInduction (fun h => formatZ_decoded h (by decide) rfl) fun h9 => ?_
  refine iteInduction (fun h => formatZ_decoded h (by decide) rfl) fun hA => ?_
  refine iteInduction (fun h => formatZ_decoded h (by decide) rfl) fun hB => ?_
  rw [← BitVec.toNat_inj, opcField_toNat, BitVec.toNat_ofNat] at h0 h1 h2 h3 h4 h5 h6 h7 h8 h9 hA hB
  exact .unassigned (by omega)

theorem encode_eq_of_decode_eq_ok {cmd : CmdWord} {i : Instr} (h : decode cmd = .ok i) : encode i = cmd := by
  have hd := decode_decoded cmd
  rw [h] at hd
  cases hd with
  | command _ word => exact word

theorem decode_eq_ok_iff {cmd : CmdWord} {i : Instr} : decode cmd = .ok i ↔ encode i = cmd :=
  ⟨encode_eq_of_decode_eq_ok, fun h => h ▸ decode_encode i⟩

theorem decode_eq_unassignedOpcode_iff {cmd : CmdWord} :
    decode cmd = .error .unassignedOpcode ↔ 0x0C000000 ≤ cmd.toNat := by
  have hd := decode_decoded cmd
  generalize decode cmd = answer at hd
  cases hd with
  | command i word => simpa [← word] using encode_lt i
  | reserved assigned => simpa using assigned
  | unassigned above => simpa using above

theorem encode_injective : Function.Injective encode := by
  intro i j h
  have hj := decode_eq_ok_iff.2 h.symm
  rw [decode_encode] at hj
  exact Except.ok.inj hj

/-! ### What a row of the opcode map admits -/

theorem rowMatch (i : Instr) : Laws.RowMatch.Statement i := by
  cases i with
  | nop => exact Laws.RowMatch.nop
  | setcfg w r => exact Laws.RowMatch.setcfg w r
  | keyclr => exact Laws.RowMatch.keyclr
  | keypush b => exact Laws.RowMatch.keypush b
  | expand => exact Laws.RowMatch.expand
  | din b => exact Laws.RowMatch.din b
  | encb => exact Laws.RowMatch.encb
  | decb => exact Laws.RowMatch.decb
  | sbegin dir => exact Laws.RowMatch.sbegin dir
  | send => exact Laws.RowMatch.send
  | abort => exact Laws.RowMatch.abort
  | srst => exact Laws.RowMatch.srst

theorem exists_row_admits_encode (i : Instr) :
    ∃ row ∈ opcodeMap, row.mnemonic = i.mnemonic ∧ row.admits (encode i) = true := by
  simpa [Laws.RowMatch.Statement] using rowMatch i

theorem opcodeMap_mnemonic_injective :
    ∀ row ∈ opcodeMap, ∀ row' ∈ opcodeMap, row'.mnemonic = row.mnemonic → row' = row := by decide

/-- Masking off the low `n` bits rounds down to a multiple of `2^n`. -/
theorem and_allOnes_shiftLeft_toNat {w : Nat} (x : BitVec w) (n : Nat) :
    (x &&& BitVec.allOnes w <<< n).toNat = x.toNat / 2 ^ n * 2 ^ n := by
  rw [← BitVec.shiftLeft_ushiftRight, BitVec.toNat_shiftLeft, BitVec.toNat_ushiftRight, Nat.shiftLeft_eq,
    Nat.shiftRight_eq_div_pow, Nat.mod_eq_of_lt ((Nat.div_mul_le_self ..).trans_lt x.isLt)]

section
variable {cmd : CmdWord} {row : OpcodeRow}

theorem OpcodeRow.admits_iff_rounded {n : Nat} (hmask : row.mask = BitVec.allOnes 32 <<< n) :
    row.admits cmd = true ↔ cmd.toNat / 2 ^ n * 2 ^ n = row.pattern.toNat := by
  rw [OpcodeRow.admits, beq_iff_eq, hmask, ← BitVec.toNat_inj, and_allOnes_shiftLeft_toNat]

theorem toNat_div_of_admits (n : Nat) (hmask : row.mask = BitVec.allOnes 32 <<< n) (h : row.admits cmd = true) :
    cmd.toNat / 2 ^ n = row.pattern.toNat / 2 ^ n := by
  rw [← (OpcodeRow.admits_iff_rounded hmask).1 h, Nat.mul_div_cancel _ (Nat.two_pow_pos n)]

theorem exists_instr_of_admits (hrow : row ∈ opcodeMap) (h : row.admits cmd = true) :
    ∃ i, encode i = cmd ∧ i.mnemonic = row.mnemonic := by
  simp only [opcodeMap, List.mem_cons, List.not_mem_nil, or_false] at hrow
  rcases hrow with rfl | rfl | rfl | rfl | rfl | rfl | rfl | rfl | rfl | rfl | rfl | rfl
  · exact ⟨.nop, wordZ_eq ((toNat_div_of_admits 0 rfl h).trans (by decide)), rfl⟩
  · exact ⟨.setcfg _ _, wordC_roundsField_lowByte (toNat_div_of_admits 16 rfl h), rfl⟩
  · exact ⟨.keyclr, wordZ_eq (toNat_div_of_admits 0 rfl h), rfl⟩
  · exact ⟨.keypush _, wordB_lowByte (toNat_div_of_admits 8 rfl h), rfl⟩
  · exact ⟨.expand, wordZ_eq (toNat_div_of_admits 0 rfl h), rfl⟩
  · exact ⟨.din _, wordB_lowByte (toNat_div_of_admits 8 rfl h), rfl⟩
  · exact ⟨.encb, wordZ_eq (toNat_div_of_admits 0 rfl h), rfl⟩
  · exact ⟨.decb, wordZ_eq (toNat_div_of_admits 0 rfl h), rfl⟩
  · exact ⟨.sbegin _, wordM_dirField (toNat_div_of_admits 1 rfl h), rfl⟩
  · exact ⟨.send, wordZ_eq (toNat_div_of_admits 0 rfl h), rfl⟩
  · exact ⟨.abort, wordZ_eq (toNat_div_of_admits 0 rfl h), rfl⟩
  · exact ⟨.srst, wordZ_eq (toNat_div_of_admits 0 rfl h), rfl⟩

theorem admits_iff_exists_instr (hrow : row ∈ opcodeMap) :
    row.admits cmd = true ↔ ∃ i, encode i = cmd ∧ i.mnemonic = row.mnemonic := by
  refine ⟨exists_instr_of_admits hrow, ?_⟩
  rintro ⟨i, rfl, hmnemonic⟩
  obtain ⟨row', hrow', hmnemonic', hadmits⟩ := exists_row_admits_encode i
  obtain rfl := opcodeMap_mnemonic_injective row hrow row' hrow' (hmnemonic'.trans hmnemonic)
  exact hadmits

theorem wordWellFormed_iff_exists_row : wordWellFormed cmd = true ↔ ∃ row ∈ opcodeMap, row.admits cmd = true :=
  List.any_eq_true

theorem wordWellFormed_iff_exists_instr : wordWellFormed cmd = true ↔ ∃ i, encode i = cmd := by
  rw [wordWellFormed_iff_exists_row]
  constructor
  · rintro ⟨row, hrow, hadmits⟩
    obtain ⟨i, hi, -⟩ := exists_instr_of_admits hrow hadmits
    exact ⟨i, hi⟩
  · rintro ⟨i, rfl⟩
    obtain ⟨row, hrow, -, hadmits⟩ := exists_row_admits_encode i
    exact ⟨row, hrow, hadmits⟩

theorem decode_eq_reservedBits_iff :
    decode cmd = .error .reservedBits ↔ cmd.toNat < 0x0C000000 ∧ wordWellFormed cmd = false := by
  rw [← Bool.not_eq_true, wordWellFormed_iff_exists_instr]
  simp only [← decode_eq_ok_iff]
  have hd := decode_decoded cmd
  generalize decode cmd = answer at hd
  cases hd with
  | command i word => simp
  | reserved assigned => simpa using assigned
  | unassigned above => simpa using above

end

/-! ### The opcode map as ranges of numbers -/

/-- How many words the row admits: its mask fixes all bits from some bit up. -/
def OpcodeRow.size (row : OpcodeRow) : Nat := 2 ^ 32 - row.mask.toNat

/-- Each row's mask leaves the low 0, 1, 8 or 16 bits free, and its match is 0 there. -/
theorem opcodeMap_masks : ∀ row ∈ opcodeMap, ∃ n ∈ [0, 1, 8, 16],
    row.mask = BitVec.allOnes 32 <<< n ∧ row.size = 2 ^ n ∧ row.pattern.toNat = row.pattern.toNat / 2 ^ n * 2 ^ n := by
  decide

theorem OpcodeRow.admits_iff_range {row : OpcodeRow} (hrow : row ∈ opcodeMap) {cmd : CmdWord} :
    row.admits cmd = true ↔ row.pattern.toNat ≤ cmd.toNat ∧ cmd.toNat < row.pattern.toNat + row.size := by
  obtain ⟨n, -, hmask, hsize, hpattern⟩ := opcodeMap_masks row hrow
  have hpos : 0 < 2 ^ n := Nat.two_pow_pos n
  rw [OpcodeRow.admits_iff_rounded hmask, hsize, hpattern, Nat.mul_right_cancel_iff hpos, Nat.div_eq_iff hpos]
  omega

/-- The well-formed words as numbers, row by row. -/
def wellFormedNumbers : List Nat := opcodeMap.flatMap fun row => List.range' row.pattern.toNat row.size

theorem mem_wellFormedNumbers {n : Nat} :
    n ∈ wellFormedNumbers ↔ ∃ row ∈ opcodeMap, row.pattern.toNat ≤ n ∧ n < row.pattern.toNat + row.size := by
  simp [wellFormedNumbers, List.mem_range'_1]

theorem lt_of_mem_wellFormedNumbers {n : Nat} (h : n ∈ wellFormedNumbers) : n < 2 ^ 32 := by
  have hbound : ∀ row ∈ opcodeMap, row.pattern.toNat + row.size ≤ 2 ^ 32 := by decide
  obtain ⟨row, hrow, -, hlt⟩ := mem_wellFormedNumbers.1 h
  exact hlt.trans_le (hbound row hrow)

theorem wellFormedNumbers_length : wellFormedNumbers.length = 66058 := by
  rw [wellFormedNumbers, List.length_flatMap]
  simp only [List.length_range']
  rfl

/-- The rows' ranges stand one after another. -/
theorem wellFormedNumbers_pairwise_lt : wellFormedNumbers.Pairwise (· < ·) := by
  have hrows : opcodeMap.Pairwise fun a b => a.pattern.toNat + a.size ≤ b.pattern.toNat := by decide
  refine List.pairwise_flatMap.2 ⟨fun row _ => List.pairwise_lt_range', hrows.imp fun hab x hx y hy => ?_⟩
  rw [List.mem_range'_1] at hx hy
  omega

/-- The well-formed words. -/
def wellFormedWords : List CmdWord := wellFormedNumbers.map (BitVec.ofNat 32)

theorem mem_wellFormedWords {cmd : CmdWord} : cmd ∈ wellFormedWords ↔ cmd.toNat ∈ wellFormedNumbers := by
  rw [wellFormedWords, List.mem_map]
  constructor
  · rintro ⟨n, hn, rfl⟩
    rwa [BitVec.toNat_ofNat, Nat.mod_eq_of_lt (lt_of_mem_wellFormedNumbers hn)]
  · exact fun h => ⟨_, h, by rw [BitVec.ofNat_toNat, BitVec.setWidth_eq]⟩

theorem wellFormedWords_nodup : wellFormedWords.Nodup := by
  refine List.Nodup.map_on (fun x hx y hy hxy => ?_) (wellFormedNumbers_pairwise_lt.imp Nat.ne_of_lt)
  have hmod := congrArg BitVec.toNat hxy
  rwa [BitVec.toNat_ofNat, BitVec.toNat_ofNat, Nat.mod_eq_of_lt (lt_of_mem_wellFormedNumbers hx),
    Nat.mod_eq_of_lt (lt_of_mem_wellFormedNumbers hy)] at hmod

theorem mem_wellFormedWords_iff {cmd : CmdWord} : cmd ∈ wellFormedWords ↔ wordWellFormed cmd = true := by
  rw [mem_wellFormedWords, mem_wellFormedNumbers, wordWellFormed_iff_exists_row]
  exact exists_congr fun row => and_congr_right fun hrow => (OpcodeRow.admits_iff_range hrow).symm

end Sys2Proof

open Sys2Proof

/-- Settles O1, format by format: each field is read back from the word it was put into. -/
theorem decodeOfEncode : Obligations.DecodeOfEncode := decode_encode

/-- Settles O2: decoding is the inverse of encoding, wherever it does not refuse. -/
theorem everyWordHasOneMeaning : Obligations.EveryWordHasOneMeaning := by
  intro cmd
  cases hd : decode cmd with
  | ok i =>
    obtain rfl := decode_eq_ok_iff.1 hd
    exact .inl ⟨i, rfl, rfl, fun _ hi' => encode_injective hi'⟩
  | error e =>
    refine .inr ⟨⟨e, rfl⟩, fun i hi => ?_⟩
    rw [decode_eq_ok_iff.2 hi] at hd
    cases hd

/-- Settles O3: a row's mask and match leave exactly the words of the row's command. -/
theorem rowsAdmitTheirCommand : Obligations.RowsAdmitTheirCommand := by
  intro cmd row hrow
  simp only [admits_iff_exists_instr hrow, decode_eq_ok_iff]

/-- Settles O4: the refusals by the decoder's answers, and the count by the ranges of the rows. -/
theorem illegalWordsByKindAndCount : Obligations.IllegalWordsByKindAndCount :=
  ⟨fun _ => ⟨decode_eq_unassignedOpcode_iff, decode_eq_reservedBits_iff⟩,
    wellFormedWords, wellFormedWords_nodup, (List.length_map _).trans wellFormedNumbers_length,
    fun _ => mem_wellFormedWords_iff⟩

/-- Settles O5, the concatenated fields as a sum. -/
theorem wordsOfTheAssembler : Obligations.WordsOfTheAssembler := by
  refine ⟨fun w r => ?_, fun b => ⟨?_, ?_⟩, by decide⟩
  · rw [encode, wordC_toNat, BitVec.toNat_ofNat]
    omega
  · exact wordB_toNat 0x03#8 b
  · exact wordB_toNat 0x05#8 b

/-- Settles O6: ten fixed words, each run through the decoder. -/
theorem sampleWordsDecode : Obligations.SampleWordsDecode := by
  unfold Obligations.SampleWordsDecode
  decide

end

section
/-! ## Proofs of the statements about the word primitives, 40_word_primitives.md

A rotation is a sum of two shifts that share no bit, so it is also their bitwise or: the sum gives the rotated number,
the bitwise or gives the rotated bits, and the laws of R97 compare bits. -/

namespace Sys2Proof.Machine

open Sys2Proof

/-! ### Addition, subtraction and exclusive-or -/

section
variable {w : Nat} (x y : BitVec w)

@[simp] theorem addw_toNat : (addw x y).toNat = (x.toNat + y.toNat) % 2 ^ w := BitVec.toNat_add x y

theorem subw_toNat_int : ((subw x y).toNat : Int) = ((x.toNat : Int) - (y.toNat : Int)) % 2 ^ w := by
  have hy : y.toNat ≤ 2 ^ w := y.isLt.le
  calc ((subw x y).toNat : Int) = (2 ^ w - (y.toNat : Int) + x.toNat) % 2 ^ w := by
        rw [subw, BitVec.toNat_sub, Int.natCast_emod, Nat.cast_add, Nat.cast_sub hy, Nat.cast_pow, Nat.cast_ofNat]
    _ = ((x.toNat : Int) - y.toNat + 2 ^ w) % 2 ^ w := by ring_nf
    _ = ((x.toNat : Int) - y.toNat) % 2 ^ w := Int.add_emod_right _ _

@[simp] theorem xorw_getLsbD (q : Nat) : (xorw x y).getLsbD q = (x.getLsbD q != y.getLsbD q) := BitVec.getLsbD_xor

@[simp] theorem subw_addw_cancel : subw (addw x y) y = x := BitVec.add_sub_cancel x y

@[simp] theorem addw_subw_cancel : addw (subw x y) y = x := BitVec.sub_add_cancel x y

@[simp] theorem xorw_xorw_cancel : xorw (xorw x y) y = x := by
  rw [xorw, xorw, BitVec.xor_assoc, BitVec.xor_self, BitVec.xor_zero]

end

/-! ### Rotations as numbers -/

section
variable {w : Nat} (x y : BitVec w) (s : Nat)

theorem shiftLeft_and_ushiftRight_eq_zero (k : Nat) : x <<< k &&& y >>> (w - k) = 0#w := by
  refine BitVec.eq_of_getLsbD_eq fun q hq => ?_
  rw [BitVec.getLsbD_and, BitVec.getLsbD_shiftLeft, BitVec.getLsbD_ushiftRight, BitVec.getLsbD_zero]
  by_cases below : q < k
  · simp [below]
  · rw [BitVec.getLsbD_of_ge y _ (by omega), Bool.and_false]

theorem ushiftRight_and_shiftLeft_eq_zero {k : Nat} (hk : k ≤ w) : x >>> k &&& y <<< (w - k) = 0#w := by
  have h := shiftLeft_and_ushiftRight_eq_zero y x (w - k)
  rwa [Nat.sub_sub_self hk, BitVec.and_comm] at h

theorem rotl_eq_self (h : s % w = 0) : rotl x s = x := if_pos h

theorem rotr_eq_self (h : s % w = 0) : rotr x s = x := if_pos h

/-- R93 needs no case `k = 0`: the second shift is then by the whole width. -/
theorem rotl_eq_add : rotl x s = x <<< (s % w) + x >>> (w - s % w) := by
  by_cases h : s % w = 0
  · rw [rotl_eq_self x s h, h, BitVec.shiftLeft_zero, Nat.sub_zero, BitVec.ushiftRight_eq_zero le_rfl, BitVec.add_zero]
  · exact if_neg h

theorem rotr_eq_add : rotr x s = x >>> (s % w) + x <<< (w - s % w) := by
  by_cases h : s % w = 0
  · rw [rotr_eq_self x s h, h, BitVec.ushiftRight_zero, Nat.sub_zero, BitVec.shiftLeft_eq_zero le_rfl, BitVec.add_zero]
  · exact if_neg h

theorem rotl_congr {s t : Nat} (h : s % w = t % w) : rotl x s = rotl x t := by
  rw [rotl_eq_add, rotl_eq_add, h]

theorem rotl_toNat : (rotl x s).toNat = (x.toNat * 2 ^ (s % w)) % 2 ^ w + x.toNat / 2 ^ (w - s % w) := by
  rw [rotl_eq_add, BitVec.toNat_add_of_and_eq_zero (shiftLeft_and_ushiftRight_eq_zero x x _), BitVec.toNat_shiftLeft,
    BitVec.toNat_ushiftRight, Nat.shiftLeft_eq, Nat.shiftRight_eq_div_pow]

theorem rotr_toNat (hw : 0 < w) :
    (rotr x s).toNat = x.toNat / 2 ^ (s % w) + (x.toNat * 2 ^ (w - s % w)) % 2 ^ w := by
  rw [rotr_eq_add, BitVec.toNat_add_of_and_eq_zero (ushiftRight_and_shiftLeft_eq_zero x x (Nat.mod_lt s hw).le),
    BitVec.toNat_shiftLeft, BitVec.toNat_ushiftRight, Nat.shiftLeft_eq, Nat.shiftRight_eq_div_pow]

theorem rotl_eq_rotateLeft : rotl x s = x.rotateLeft s := by
  rw [rotl_eq_add, BitVec.rotateLeft_def,
    BitVec.add_eq_or_of_and_eq_zero _ _ (shiftLeft_and_ushiftRight_eq_zero x x _)]

theorem rotr_eq_rotateRight (hw : 0 < w) : rotr x s = x.rotateRight s := by
  rw [rotr_eq_add, BitVec.rotateRight_def,
    BitVec.add_eq_or_of_and_eq_zero _ _ (ushiftRight_and_shiftLeft_eq_zero x x (Nat.mod_lt s hw).le)]

/-! ### Rotations bit by bit, and their laws -/

variable (hw : 0 < w)
include hw

theorem rotl_getLsbD {q : Nat} (hq : q < w) : (rotl x s).getLsbD q = x.getLsbD ((q + (w - s % w)) % w) := by
  have hk := Nat.mod_lt s hw
  rw [rotl_eq_rotateLeft, BitVec.getLsbD_rotateLeft, Bool.cond_decide]
  generalize s % w = k at hk ⊢
  split
  case isTrue wrapped => rw [Nat.mod_eq_of_lt (by omega), Nat.add_comm]
  case isFalse shifted =>
    rw [decide_eq_true hq, Bool.true_and, show q + (w - k) = q - k + w by omega, Nat.add_mod_right,
      Nat.mod_eq_of_lt (by omega)]

theorem rotr_getLsbD {q : Nat} (hq : q < w) : (rotr x s).getLsbD q = x.getLsbD ((q + s % w) % w) := by
  have hk := Nat.mod_lt s hw
  rw [rotr_eq_rotateRight x s hw, BitVec.getLsbD_rotateRight, Bool.cond_decide]
  generalize s % w = k at hk ⊢
  split
  case isTrue shifted => rw [Nat.mod_eq_of_lt (by omega), Nat.add_comm]
  case isFalse wrapped =>
    rw [decide_eq_true hq, Bool.true_and, show q + k = q - (w - k) + w by omega, Nat.add_mod_right,
      Nat.mod_eq_of_lt (by omega)]

theorem rotr_eq_rotl : rotr x s = rotl x (w - s % w) := by
  have hk := Nat.mod_lt s hw
  refine BitVec.eq_of_getLsbD_eq fun q hq => ?_
  rw [rotr_getLsbD x s hw hq, rotl_getLsbD x _ hw hq]
  by_cases hzero : s % w = 0
  · rw [hzero, Nat.sub_zero, Nat.mod_self, Nat.sub_zero, Nat.add_zero, Nat.add_mod_right]
  · rw [Nat.mod_eq_of_lt (show w - s % w < w by omega), Nat.sub_sub_self hk.le]

theorem rotr_rotl_cancel : rotr (rotl x s) s = x := by
  have hk := Nat.mod_lt s hw
  refine BitVec.eq_of_getLsbD_eq fun q hq => ?_
  rw [rotr_getLsbD _ s hw hq, rotl_getLsbD x s hw (Nat.mod_lt _ hw), Nat.mod_add_mod,
    show q + s % w + (w - s % w) = q + w by omega, Nat.add_mod_right, Nat.mod_eq_of_lt hq]

theorem rotl_rotr_cancel : rotl (rotr x s) s = x := by
  have hk := Nat.mod_lt s hw
  refine BitVec.eq_of_getLsbD_eq fun q hq => ?_
  rw [rotl_getLsbD _ s hw hq, rotr_getLsbD x s hw (Nat.mod_lt _ hw), Nat.mod_add_mod,
    show q + (w - s % w) + s % w = q + w by omega, Nat.add_mod_right, Nat.mod_eq_of_lt hq]

end

/-! ### Rotation amounts -/

theorem wordSize_bits_dvd_two_pow (ws : WordSize) : ws.bits ∣ 2 ^ ws.bits := by cases ws <;> decide

theorem addw_toNat_mod_bits {ws : WordSize} (a b : BitVec ws.bits) :
    (addw a b).toNat % ws.bits = (a.toNat + b.toNat) % ws.bits := by
  rw [addw_toNat, Nat.mod_mod_of_dvd _ (wordSize_bits_dvd_two_pow ws)]

/-! ### The key-schedule constants -/

theorem constP_odd (ws : WordSize) : Odd (constP ws).toNat := by cases ws <;> decide

theorem constQ_odd (ws : WordSize) : Odd (constQ ws).toNat := by cases ws <;> decide

/-- Close enough to tell `P_64` from its neighbours. -/
theorem exp_one_sub_two_mem_Icc :
    Real.exp 1 - 2 ∈ Set.Icc (0.71828182845904523534 : ℝ) 0.71828182845904523537 := by
  obtain ⟨hupper, hlower⟩ := abs_sub_le_iff.1 Real.exp_one_near_20
  constructor <;> linarith

/-- Close enough to tell `Q_64` from its neighbours. -/
theorem goldenRatio_sub_one_mem_Icc :
    (1 + √5) / 2 - 1 ∈ Set.Icc (0.618033988749894848204 : ℝ) 0.618033988749894848205 := by
  have hlower : 2.236067977499789696408 ≤ √5 := Real.le_sqrt_of_sq_le (by norm_num)
  have hupper : √5 ≤ 2.23606797749978969641 := (Real.sqrt_le_left (by norm_num)).2 (by norm_num)
  constructor <;> linarith

theorem abs_mul_two_pow_sub_lt_one {c lo hi : ℝ} {n m : ℕ} (hc : c ∈ Set.Icc lo hi) (hlo : m - 1 < lo * 2 ^ n)
    (hhi : hi * 2 ^ n < m + 1) : |c * 2 ^ n - m| < 1 := by
  have hlower : lo * 2 ^ n ≤ c * 2 ^ n := by gcongr; exact hc.1
  have hupper : c * 2 ^ n ≤ hi * 2 ^ n := by gcongr; exact hc.2
  rw [abs_sub_lt_iff]
  constructor <;> linarith

theorem constP_near (ws : WordSize) : |(Real.exp 1 - 2) * 2 ^ ws.bits - ((constP ws).toNat : ℝ)| < 1 := by
  have near {n m : ℕ} := abs_mul_two_pow_sub_lt_one (n := n) (m := m) exp_one_sub_two_mem_Icc
  cases ws with
  | w16 => exact near (n := 16) (m := 0xB7E1) (by norm_num) (by norm_num)
  | w32 => exact near (n := 32) (m := 0xB7E15163) (by norm_num) (by norm_num)
  | w64 => exact near (n := 64) (m := 0xB7E151628AED2A6B) (by norm_num) (by norm_num)

theorem constQ_near (ws : WordSize) : |((1 + √5) / 2 - 1) * 2 ^ ws.bits - ((constQ ws).toNat : ℝ)| < 1 := by
  have near {n m : ℕ} := abs_mul_two_pow_sub_lt_one (n := n) (m := m) goldenRatio_sub_one_mem_Icc
  cases ws with
  | w16 => exact near (n := 16) (m := 0x9E37) (by norm_num) (by norm_num)
  | w32 => exact near (n := 32) (m := 0x9E3779B9) (by norm_num) (by norm_num)
  | w64 => exact near (n := 64) (m := 0x9E3779B97F4A7C15) (by norm_num) (by norm_num)

end Sys2Proof.Machine

open Sys2Proof Sys2Proof.Machine

/-- Settles O37: the two shifts of ROTL share no bit, so their sum neither wraps nor carries. -/
theorem rotlMovesBits : Obligations.RotlMovesBits :=
  fun _ x s hw => ⟨rotl_eq_self x s, fun _ => rotl_toNat x s, fun _ hq => rotl_getLsbD x s hw hq⟩

/-- Settles O38: the two shifts of ROTR share no bit, so their sum neither wraps nor carries. -/
theorem rotrMovesBits : Obligations.RotrMovesBits :=
  fun _ x s hw => ⟨rotr_eq_self x s, fun _ => rotr_toNat x s hw, fun _ hq => rotr_getLsbD x s hw hq⟩

/-- Settles O40, bit by bit: what ROTL adds to an index and what ROTR adds come to the width. -/
theorem rotationsAreInverse : Obligations.RotationsAreInverse :=
  fun _ x s hw => ⟨rotr_rotl_cancel x s hw, rotl_rotr_cancel x s hw, rotr_eq_rotl x s hw⟩

/-- Settles O41, from rational bounds on `e` and on the square root of 5. -/
theorem keyScheduleConstants : Obligations.KeyScheduleConstants :=
  ⟨rfl, rfl, rfl, rfl, rfl, rfl, fun ws => ⟨constP_odd ws, constQ_odd ws, constP_near ws, constQ_near ws⟩⟩

/-- Settles O36: the primitives are the ring operations and the exclusive-or of bit vectors. -/
theorem modularArithmetic : Obligations.ModularArithmetic :=
  fun _ x y => ⟨addw_toNat x y, subw_toNat_int x y, xorw_getLsbD x y, subw_addw_cancel x y, addw_subw_cancel x y,
    xorw_xorw_cancel x y⟩

/-- Settles O39: the word size divides the modulus of the sum. -/
theorem rotationAmountReduction : Obligations.RotationAmountReduction :=
  fun _ x a b => ⟨rotl_congr x (addw_toNat_mod_bits a b), (addw_toNat_mod_bits a b).symm⟩

end

section
/-! ## Proofs of the statements about configuration, the key and its expansion, 41_config_key.md

The four commands share their first check, the mode, so what that check does is said once. The words of Align and Seed
are given one by one as numbers, and Expand depends on the key only through its number of words and its bytes. -/

namespace Sys2Proof.Machine

open Sys2Proof

/-! ### The check of the mode -/

section
variable {s : State} {cmd : CmdWord} {rule : Result}

theorem acceptIdle_of_idle (hready : s.ERR = .noFault) (hidle : s.MODE = .idle) :
    accept s (if s.MODE ≠ .idle then raise .sequenceError cmd s else rule) = rule := by
  rw [accept_ready _ hready, if_neg (not_not.2 hidle)]

theorem acceptIdle_of_stream (hready : s.ERR = .noFault) (hstream : s.MODE ≠ .idle) :
    accept s (if s.MODE ≠ .idle then raise .sequenceError cmd s else rule) =
      .next { s with ERR := .sequenceError, ERRCMD := cmd } := by
  rw [accept_ready _ hready, if_pos hstream]
  rfl

/-! ### The configuration and the key -/

theorem exec_setcfg_of_idle (wbits rounds : BitVec 8) (hready : s.ERR = .noFault) (hidle : s.MODE = .idle) :
    exec (.setcfg wbits rounds) s =
      if wordSize? wbits = none then raise .configurationError (encode (.setcfg wbits rounds)) s
      else .next { s with W := wbits, R := rounds, TVALID := false, BCNT := 0#5 } :=
  acceptIdle_of_idle hready hidle

theorem exec_keypush_of_idle (b : Byte) (hready : s.ERR = .noFault) (hidle : s.MODE = .idle) :
    exec (.keypush b) s =
      if s.KLEN = 255#8 then raise .configurationError (encode (.keypush b)) s
      else .next { s with K := s.K.write s.KLEN.toNat b, KLEN := s.KLEN + 1#8, TVALID := false } :=
  acceptIdle_of_idle hready hidle

theorem key?_keypush {b : Byte} {key : List Byte} (hroom : s.KLEN ≠ 255#8) (hkey : s.key? = some key) :
    ({ s with K := s.K.write s.KLEN.toNat b, KLEN := s.KLEN + 1#8, TVALID := false } : State).key? =
      some (key ++ [b]) := by
  rw [State.key?, (klen_succ hroom).1]
  exact Memory.readList_write_end b hkey

/-! ### EXPAND -/

theorem exec_expand_of_key {ws : WordSize} {key : List Byte} (hready : s.ERR = .noFault) (hidle : s.MODE = .idle)
    (hws : wordSize? s.W = some ws) (hkey : s.key? = some key) :
    exec .expand s = .next (s.installTable ws (expand ws s.R.toNat key)) := by
  refine (acceptIdle_of_idle hready hidle).trans ?_
  simp only [hws, hkey, need_some]

theorem exec_expand_of_unconfigured (hready : s.ERR = .noFault) (hidle : s.MODE = .idle) (hcfgv : s.cfgv = false) :
    exec .expand s = .next { s with ERR := .sequenceError, ERRCMD := encode .expand } := by
  refine (acceptIdle_of_idle hready hidle).trans ?_
  simp only [cfgv_false_iff.1 hcfgv]
  rfl

/-- R113: after EXPAND the first `c` elements of L are Expand's words. -/
theorem installTable_expand_L (ws : WordSize) (r : Nat) (key : List Byte) :
    (s.installTable ws (expand ws r key)).L.readList 0 (keyWords ws key.length) =
      some ((expand ws r key).L.map wordCell) := by
  have hlen : ((expand ws r key).L.map wordCell).length = keyWords ws key.length := by simp
  rw [State.installTable_L, ← hlen]
  exact Memory.readList_writeList ..

theorem installTable_expand_S_above (ws : WordSize) (r : Nat) (key : List Byte) {a : Nat} (h : tableWords r ≤ a) :
    (s.installTable ws (expand ws r key)).S.read a = s.S.read a :=
  Memory.read_writeList_other _ _ (by simp [h])

theorem installTable_expand_L_above (ws : WordSize) (r : Nat) (key : List Byte) {a : Nat}
    (h : keyWords ws key.length ≤ a) : (s.installTable ws (expand ws r key)).L.read a = s.L.read a :=
  Memory.read_writeList_other _ _ (by simp [h])

end

/-! ### Align -/

/-- R114: key word `q`. -/
theorem align_getElem? {ws : WordSize} {key : List Byte} {q : Nat} (h : q < (align ws key).length) :
    (align ws key)[q]? = some (leWord ws.bits (keyGroup ws key q) 0 ws.bytes) := by
  rw [align_length] at h
  simp [align, h]

theorem keyGroup_getD (ws : WordSize) (key : List Byte) (q : Nat) {n : Nat} (h : n < ws.bytes) :
    (keyGroup ws key q).getD n 0#8 = key.getD (q * ws.bytes + n) 0#8 := by
  simp [keyGroup, keyByte, List.getD_eq_getElem?_getD, h]

theorem keyWord_toNat (ws : WordSize) (key : List Byte) (q : Nat) :
    (leWord ws.bits (keyGroup ws key q) 0 ws.bytes).toNat =
      ∑ n ∈ Finset.range ws.bytes, (key.getD (q * ws.bytes + n) 0#8).toNat * 2 ^ (8 * n) := by
  rw [leWord_toNat, leNat_slice_eq_sum]
  refine Finset.sum_congr rfl fun n hn => ?_
  rw [Nat.zero_add, keyGroup_getD ws key q (Finset.mem_range.1 hn)]

theorem align_nil (ws : WordSize) : align ws [] = [0] := by cases ws <;> decide

/-- Align sees the number of key words and the bytes, and a byte beyond the end is zero. -/
theorem align_congr {ws : WordSize} {key key' : List Byte} (hwords : keyWords ws key'.length = keyWords ws key.length)
    (hbytes : ∀ m, keyByte key' m = keyByte key m) : align ws key' = align ws key := by
  simp only [align, keyGroup, hwords, hbytes]

theorem keyByte_append_zeros (key : List Byte) (n m : Nat) :
    keyByte (key ++ List.replicate n 0#8) m = keyByte key m := by
  rcases Nat.lt_or_ge m key.length with hin | hbeyond
  · rw [keyByte, keyByte, List.getD_append _ _ _ _ hin]
  · rw [keyByte, keyByte, List.getD_append_right _ _ _ _ hbeyond, List.getD_eq_default _ _ hbeyond,
      List.getD_eq_getElem?_getD, List.getElem?_replicate]
    split <;> rfl

/-! ### Seed -/

/-- R115: each word adds one more step to the first. -/
theorem seedFrom_getElem? {w : Nat} (step x : BitVec w) {n q : Nat} (h : q < n) :
    (seedFrom step n x)[q]? = some (x + BitVec.ofNat w q * step) := by
  induction n generalizing x q with
  | zero => exact absurd h (Nat.not_lt_zero q)
  | succ n ih =>
    cases q with
    | zero => simp [seedFrom]
    | succ q =>
      rw [seedFrom, List.getElem?_cons_succ, ih _ (Nat.lt_of_succ_lt_succ h), addw, BitVec.ofNat_add, BitVec.add_mul,
        BitVec.one_mul, BitVec.add_assoc, BitVec.add_comm step]

end Sys2Proof.Machine

open Sys2Proof Sys2Proof.Machine

/-- Settles O15: what Expand gives is written from element 0 up, as far as it goes. -/
theorem expandInstallsTheTable : Obligations.ExpandInstallsTheTable := fun _ hready =>
  ⟨fun ws key hidle hws hkey => ⟨_, exec_expand_of_key hready hidle hws hkey, rfl, installTable_expand_S ws key,
      installTable_expand_L ws _ key, fun _ => installTable_expand_S_above ws _ key,
      fun _ => installTable_expand_L_above ws _ key⟩,
    acceptIdle_of_stream hready, exec_expand_of_unconfigured hready⟩

/-- Settles O44: a key word is the number of its group of bytes. -/
theorem alignPacksTheKey : Obligations.AlignPacksTheKey := fun ws key =>
  ⟨align_length ws key, fun q hq => ⟨_, align_getElem? hq, keyWord_toNat ws key q⟩, align_nil ws⟩

/-- Settles O45, by induction on the number of words. -/
theorem seedClosedForm : Obligations.SeedClosedForm := fun ws r =>
  ⟨seed_length ws r, fun _ hq => seedFrom_getElem? (constQ ws) (constP ws) hq⟩

/-- Settles O46: the two keys have the same words, so the same mixing. -/
theorem zeroBytesInTheLastKeyWord : Obligations.ZeroBytesInTheLastKeyWord := by
  intro ws r n key hwords
  have hlen : keyWords ws (key ++ List.replicate n 0#8).length = keyWords ws key.length := by simpa using hwords
  rw [expand, expand, hlen, align_congr hlen (keyByte_append_zeros key n)]

/-- Settles O12, past the check of the mode by the check of WBITS. -/
theorem setcfgSetsTheParameters : Obligations.SetcfgSetsTheParameters := by
  intro s wbits rounds hready
  refine ⟨fun hidle hlegal => ?_, acceptIdle_of_stream hready, fun hidle hillegal => ?_⟩
  · have hsize : wordSize? wbits ≠ none := fun hnone => wordSize?_eq_none.1 hnone hlegal
    exact ⟨_, (exec_setcfg_of_idle wbits rounds hready hidle).trans (if_neg hsize), rfl,
      Option.isSome_iff_ne_none.2 hsize⟩
  · exact (exec_setcfg_of_idle wbits rounds hready hidle).trans (if_pos (wordSize?_eq_none.2 hillegal))

/-- Settles O13: the mode is all that KEYCLR checks. -/
theorem keyclrEmptiesTheKey : Obligations.KeyclrEmptiesTheKey := fun _ hready =>
  ⟨acceptIdle_of_idle hready, acceptIdle_of_stream hready⟩

/-- Settles O14: below 255 the key grows by the byte written at its end. -/
theorem keypushAppendsAByte : Obligations.KeypushAppendsAByte := by
  intro s b hready
  refine ⟨fun hidle hroom => ?_, acceptIdle_of_stream hready, fun hidle hfull => ?_⟩
  · exact ⟨_, (exec_keypush_of_idle b hready hidle).trans (if_neg hroom), rfl, (klen_succ hroom).1,
      Memory.read_write_same .., fun _ => Memory.read_write_other _ b, fun _ => key?_keypush hroom⟩
  · exact (exec_keypush_of_idle b hready hidle).trans (if_pos hfull)

/-- Settles O47, by evaluation: vectors E1, E4 and B6 of 95_test_vectors.md. -/
theorem workedExamples : Obligations.WorkedExamples := ⟨⟨rfl, rfl⟩, rfl, rfl⟩

end

section
/-! ## Proofs of the statements about data input and the block cipher, 42_block.md

A round of decryption computes the words of the round of encryption in the opposite order, each by the inverse of the
rotation, the sum and the exclusive-or that made it. ENCB and DECB differ in the transform alone (`blockCommand`), so
what their common form does is said of any transform. -/

namespace Sys2Proof.Machine

open Sys2Proof

/-! ### One round and its inverse -/

section
variable {w : Nat} (T : List (BitVec w)) (k : Nat) (p : WordPair w)

theorem xorw_comm (x y : BitVec w) : xorw x y = xorw y x := BitVec.xor_comm x y

theorem xorw_xorw_cancel_left (x y : BitVec w) : xorw (xorw x y) x = y := by
  rw [xorw_comm x y, xorw_xorw_cancel]

theorem xorw_self_xorw_cancel (x y : BitVec w) : xorw x (xorw y x) = y := by
  rw [xorw_comm x, xorw_xorw_cancel]

/-- Decryption takes B from the A that made it, then A from that B. -/
theorem decRound_encRound (hw : 0 < w) : decRound T k (encRound T k p) = p := by
  simp only [decRound, encRound, subw_addw_cancel, rotr_rotl_cancel _ _ hw, xorw_xorw_cancel_left, xorw_xorw_cancel]

/-- Encryption takes A from the B that made it, then B from that A. -/
theorem encRound_decRound (hw : 0 < w) : encRound T k (decRound T k p) = p := by
  simp only [decRound, encRound, xorw_xorw_cancel, rotl_rotr_cancel _ _ hw, addw_subw_cancel, xorw_self_xorw_cancel]

/-- The round that encryption does last is the one that decryption does first. -/
theorem decRounds_encRounds (hw : 0 < w) : decRounds T k (encRounds T k p) = p := by
  induction k with
  | zero => simp only [encRounds, decRounds, subw_addw_cancel]
  | succ k ih => rw [encRounds, decRounds, decRound_encRound T _ _ hw, ih]

theorem encRounds_decRounds (hw : 0 < w) : encRounds T k (decRounds T k p) = p := by
  induction k generalizing p with
  | zero => simp only [encRounds, decRounds, addw_subw_cancel]
  | succ k ih => rw [encRounds, decRounds, ih, encRound_decRound T _ _ hw]

end

/-! ### A block and its pair of words -/

theorem wordSize_bits_pos (ws : WordSize) : 0 < ws.bits := by cases ws <;> decide

/-- The low word is read from the first half of a block, the high word from the second. -/
theorem blockWords_append (ws : WordSize) {X Y : List Byte} (hX : X.length = ws.bytes) :
    blockWords ws (X ++ Y) = (leWord ws.bits X 0 ws.bytes, leWord ws.bits Y 0 ws.bytes) := by
  simp [blockWords, leWord, slice, ← hX]

theorem blockWords_blockBytesOf (ws : WordSize) (b : BitVec ws.bits × BitVec ws.bits) :
    blockWords ws (blockBytesOf ws b) = b := by
  rw [blockBytesOf, blockWords_append ws (wordLE_length ..), leWord_wordLE, leWord_wordLE]

theorem blockBytesOf_blockWords (ws : WordSize) {X : List Byte} (hX : X.length = ws.blockBytes) :
    blockBytesOf ws (blockWords ws X) = X := by
  rw [wordSize_blockBytes_eq] at hX
  have hlow : wordLE (blockWords ws X).1 ws.bytes = X.take ws.bytes := wordLE_leWord ws (by omega)
  have hhigh : wordLE (blockWords ws X).2 ws.bytes = X.drop ws.bytes :=
    (wordLE_leWord ws (by omega)).trans (List.take_of_length_le (by rw [List.length_drop]; omega))
  rw [blockBytesOf, hlow, hhigh, List.take_append_drop]

/-- R136: DecBlock undoes EncBlock. -/
theorem decBlock_encBlock (ws : WordSize) (T : List (BitVec ws.bits)) (r : Nat) {X : List Byte}
    (hX : X.length = ws.blockBytes) : decBlock ws T r (encBlock ws T r X) = X := by
  rw [decBlock, encBlock, blockWords_blockBytesOf, decRounds_encRounds T r _ (wordSize_bits_pos ws),
    blockBytesOf_blockWords ws hX]

/-- R136: EncBlock undoes DecBlock. -/
theorem encBlock_decBlock (ws : WordSize) (T : List (BitVec ws.bits)) (r : Nat) {X : List Byte}
    (hX : X.length = ws.blockBytes) : encBlock ws T r (decBlock ws T r X) = X := by
  rw [decBlock, encBlock, blockWords_blockBytesOf, encRounds_decRounds T r _ (wordSize_bits_pos ws),
    blockBytesOf_blockWords ws hX]

/-! ### ENCB and DECB -/

section
variable {s : State} {ws : WordSize} {cmd : CmdWord} {transform : WordSize → Option (List Byte × State)}

/-- Past the checks of the mode and the table, a block command is the check of BCNT and the transform. -/
theorem blockCommand_of_valid (hready : s.ERR = .noFault) (hidle : s.MODE = .idle) (hvalid : s.TVALID = true)
    (hws : wordSize? s.W = some ws) :
    blockCommand cmd transform s =
      if s.BCNT.toNat ≠ ws.blockBytes then raise .inputShapeError cmd s
      else need (transform ws) .unwrittenCell fun r => .next { r.2.emit r.1 with BCNT := 0#5 } := by
  refine (acceptIdle_of_idle hready hidle).trans ?_
  rw [if_neg (by simp [hvalid]), withWordSize_some _ hws]

/-- R134, R135: a transform that gives `out` and changes scratch registers only. -/
theorem blockCommand_emits {out : List Byte} (hready : s.ERR = .noFault) (hidle : s.MODE = .idle)
    (hvalid : s.TVALID = true) (hws : wordSize? s.W = some ws) (hwhole : s.BCNT.toNat = ws.blockBytes)
    (htransform : ∃ u, transform ws = some (out, u) ∧ u = { s with A := u.A, B := u.B, k := u.k }) :
    ∃ t, blockCommand cmd transform s = .next t ∧
      t = { s with OUT := s.OUT ++ out, BCNT := 0#5, A := t.A, B := t.B, k := t.k } := by
  obtain ⟨u, hout, hu⟩ := htransform
  refine ⟨{ u.emit out with BCNT := 0#5 }, ?_, ?_⟩
  · rw [blockCommand_of_valid hready hidle hvalid hws, if_neg (not_not.2 hwhole), hout, need_some]
  · rw [hu]
    rfl

theorem blockCommand_sequenceError (hready : s.ERR = .noFault) (h : s.MODE ≠ .idle ∨ s.TVALID = false) :
    blockCommand cmd transform s = .next { s with ERR := .sequenceError, ERRCMD := cmd } := by
  by_cases hidle : s.MODE = .idle
  · exact (acceptIdle_of_idle hready hidle).trans (if_pos (h.resolve_left (not_not.2 hidle)))
  · exact acceptIdle_of_stream hready hidle

theorem blockCommand_inputShapeError (hready : s.ERR = .noFault) (hidle : s.MODE = .idle) (hvalid : s.TVALID = true)
    (hws : wordSize? s.W = some ws) (hcount : s.BCNT.toNat ≠ ws.blockBytes) :
    blockCommand cmd transform s = .next { s with ERR := .inputShapeError, ERRCMD := cmd } :=
  (blockCommand_of_valid hready hidle hvalid hws).trans (if_pos hcount)

/-! ### DIN -/

theorem exec_din_of_unconfigured (b : Byte) (hready : s.ERR = .noFault) (hcfgv : s.cfgv = false) :
    exec (.din b) s = .next { s with ERR := .sequenceError, ERRCMD := encode (.din b) } := by
  refine (accept_ready _ hready).trans ?_
  simp only [cfgv_false_iff.1 hcfgv]
  rfl

theorem exec_din_of_idle (b : Byte) (hready : s.ERR = .noFault) (hidle : s.MODE = .idle)
    (hws : wordSize? s.W = some ws) : exec (.din b) s = dinIdle ws b s := by
  refine (accept_ready _ hready).trans ?_
  simp only [hws, hidle]

theorem pushByte?_of_lt (b : Byte) (h : s.BCNT.toNat < 16) :
    s.pushByte? b = some { s with BUF := s.BUF.write s.BCNT.toNat b, BCNT := s.BCNT + 1#5 } :=
  pushByte?_eq_some.2 ⟨h, rfl⟩

theorem dinIdle_of_lt (b : Byte) (h : s.BCNT.toNat < ws.blockBytes) :
    dinIdle ws b s = .next { s with BUF := s.BUF.write s.BCNT.toNat b, BCNT := s.BCNT + 1#5 } := by
  rw [dinIdle, if_neg h.ne, pushByte?_of_lt b (h.trans_le (wordSize_blockBytes_le ws)), need_some]

end

end Sys2Proof.Machine

open Sys2Proof Sys2Proof.Machine

/-- Settles O17: the common form of the block commands, with EncBlock for the transform. -/
theorem encbEmitsTheEncryptedBlock : Obligations.EncbEmitsTheEncryptedBlock := by
  intro s hready
  refine ⟨fun ws X T hidle hvalid hws hwhole hX hT => ?_, blockCommand_sequenceError hready,
    fun _ => blockCommand_inputShapeError hready⟩
  obtain ⟨t, hexec, ht⟩ := blockCommand_emits hready hidle hvalid hws hwhole (encryptBuf?_some hX hT)
  exact ⟨t, hexec, ht, encBlock_length ..⟩

/-- Settles O18: the common form of the block commands, with DecBlock for the transform. -/
theorem decbEmitsTheDecryptedBlock : Obligations.DecbEmitsTheDecryptedBlock := by
  intro s hready
  refine ⟨fun ws X T hidle hvalid hws hwhole hX hT => ?_, blockCommand_sequenceError hready,
    fun _ => blockCommand_inputShapeError hready⟩
  obtain ⟨t, hexec, ht⟩ := blockCommand_emits hready hidle hvalid hws hwhole (decryptBuf?_some hX hT)
  exact ⟨t, hexec, ht, decBlock_length ..⟩

/-- Settles O48, by induction on the rounds and the bytes of a pair of words. -/
theorem blockCipherIsInvertible : Obligations.BlockCipherIsInvertible := fun ws T r _ hX =>
  ⟨decBlock_encBlock ws T r hX, encBlock_decBlock ws T r hX⟩

/-- Settles O16: below bb, BUF grows by the byte written at its end. -/
theorem dinIdleStoresAByte : Obligations.DinIdleStoresAByte := by
  refine ⟨fun s b ws hready hidle hws => ⟨fun hroom => ?_, fun hfull => ?_⟩,
    fun _ b => exec_din_of_unconfigured b⟩
  · exact ⟨_, (exec_din_of_idle b hready hidle hws).trans (dinIdle_of_lt b hroom), rfl,
      bcnt_succ (hroom.trans_le (wordSize_blockBytes_le ws)), Memory.read_write_same ..,
      fun _ => Memory.read_write_other _ b⟩
  · exact (exec_din_of_idle b hready hidle hws).trans (if_pos hfull)

end

section
/-! ## Proofs of the statements about the stream commands, 43_stream.md

Both stream modes of DIN push the byte first, and what they do to a completed block is stated of the state before it. -/

namespace Sys2Proof.Machine

open Sys2Proof

section
variable {s : State} {ws : WordSize}

/-! ### SBEGIN -/

theorem exec_sbegin_of_closed (dir : Direction) (hready : s.ERR = .noFault) (hidle : s.MODE = .idle)
    (hvalid : s.TVALID = true) (hempty : s.BCNT = 0#5) :
    exec (.sbegin dir) s = .next { s with MODE := Mode.ofDirection dir, SANY := false, HVALID := false } := by
  refine (acceptIdle_of_idle hready hidle).trans ?_
  rw [if_neg (by simp [hvalid]), if_neg (not_not.2 hempty)]

theorem exec_sbegin_sequenceError (dir : Direction) (hready : s.ERR = .noFault)
    (h : s.MODE ≠ .idle ∨ s.TVALID = false ∨ s.BCNT ≠ 0#5) :
    exec (.sbegin dir) s = .next { s with ERR := .sequenceError, ERRCMD := encode (.sbegin dir) } := by
  by_cases hidle : s.MODE = .idle
  · refine (acceptIdle_of_idle hready hidle).trans ?_
    by_cases hvalid : s.TVALID = false
    · exact if_pos hvalid
    · exact (if_neg hvalid).trans (if_pos ((h.resolve_left (not_not.2 hidle)).resolve_left hvalid))
  · exact acceptIdle_of_stream hready hidle

/-! ### DIN in a stream -/

theorem exec_din_of_senc (b : Byte) (hready : s.ERR = .noFault) (hsenc : s.MODE = .senc)
    (hws : wordSize? s.W = some ws) : exec (.din b) s = dinSenc ws b s := by
  refine (accept_ready _ hready).trans ?_
  simp only [hws, hsenc]

theorem exec_din_of_sdec (b : Byte) (hready : s.ERR = .noFault) (hsdec : s.MODE = .sdec)
    (hws : wordSize? s.W = some ws) : exec (.din b) s = dinSdec ws b s := by
  refine (accept_ready _ hready).trans ?_
  simp only [hws, hsdec]

/-- In both stream modes a byte is pushed first, and only a completed block is worked on. -/
theorem pushThen_of_incomplete (b : Byte) (complete : State → Result) (h : s.BCNT.toNat + 1 < ws.blockBytes) :
    (need (s.pushByte? b) .noSuchCell fun u =>
      if u.BCNT.toNat = ws.blockBytes then complete u else .next u) =
      .next { s with BUF := s.BUF.write s.BCNT.toNat b, BCNT := s.BCNT + 1#5 } := by
  have hlt : s.BCNT.toNat < 16 := by have := wordSize_blockBytes_le ws; omega
  rw [pushByte?_of_lt b hlt, need_some]
  exact if_neg ((bcnt_succ hlt).trans_ne h.ne)

theorem pushThen_of_complete (b : Byte) (complete : State → Result) (h : s.BCNT.toNat + 1 = ws.blockBytes) :
    (need (s.pushByte? b) .noSuchCell fun u =>
      if u.BCNT.toNat = ws.blockBytes then complete u else .next u) =
      complete { s with BUF := s.BUF.write s.BCNT.toNat b, BCNT := s.BCNT + 1#5 } := by
  have hlt : s.BCNT.toNat < 16 := by have := wordSize_blockBytes_le ws; omega
  rw [pushByte?_of_lt b hlt, need_some]
  exact if_pos ((bcnt_succ hlt).trans h)

theorem exec_din_stores (b : Byte) (hready : s.ERR = .noFault) (hstream : s.MODE = .senc ∨ s.MODE = .sdec)
    (hws : wordSize? s.W = some ws) (h : s.BCNT.toNat + 1 < ws.blockBytes) :
    exec (.din b) s = .next { s with BUF := s.BUF.write s.BCNT.toNat b, BCNT := s.BCNT + 1#5 } := by
  rcases hstream with hsenc | hsdec
  · exact (exec_din_of_senc b hready hsenc hws).trans (pushThen_of_incomplete b _ h)
  · exact (exec_din_of_sdec b hready hsdec hws).trans (pushThen_of_incomplete b _ h)

/-- The byte that completes a block makes the waiting bytes the block. -/
theorem readList_write_complete {X : List Byte} (b : Byte) (hX : s.BUF.readList 0 s.BCNT.toNat = some X)
    (h : s.BCNT.toNat + 1 = ws.blockBytes) :
    (s.BUF.write s.BCNT.toNat b).readList 0 ws.blockBytes = some (X ++ [b]) :=
  h ▸ Memory.readList_write_end b hX

/-- R146: a completed block is encrypted and emitted. -/
theorem exec_din_encrypts (b : Byte) {X : List Byte} {T : List (BitVec ws.bits)} (hready : s.ERR = .noFault)
    (hsenc : s.MODE = .senc) (hws : wordSize? s.W = some ws) (hX : s.BUF.readList 0 s.BCNT.toNat = some X)
    (hT : s.table? ws = some T) (h : s.BCNT.toNat + 1 = ws.blockBytes) :
    ∃ a a' k, exec (.din b) s = .next
      { s with BUF := s.BUF.write s.BCNT.toNat b, BCNT := 0#5, SANY := true,
               OUT := s.OUT ++ encBlock ws T s.R.toNat (X ++ [b]), A := a, B := a', k := k } := by
  let s1 : State := { s with BUF := s.BUF.write s.BCNT.toNat b, BCNT := s.BCNT + 1#5 }
  have hblock : s1.BUF.readList 0 ws.blockBytes = some (X ++ [b]) := readList_write_complete b hX h
  have htable : s1.table? ws = some T := hT
  obtain ⟨u, hout, hu⟩ := encryptBuf?_some hblock htable
  refine ⟨u.A, u.B, u.k, (exec_din_of_senc b hready hsenc hws).trans ((pushThen_of_complete b _ h).trans ?_)⟩
  rw [hout, need_some, hu]
  rfl

theorem heldBlock?_of_held {H : List Byte} (h : s.HVALID = true → s.HOLD.readList 0 ws.blockBytes = some H) :
    s.heldBlock? ws = some (if s.HVALID = true then H else []) := by
  unfold State.heldBlock?
  split
  · exact h ‹_›
  · rfl

/-- R147: the block held back is emitted, the decryption of the completed one held. -/
theorem exec_din_holds (b : Byte) {X H : List Byte} {T : List (BitVec ws.bits)} (hready : s.ERR = .noFault)
    (hsdec : s.MODE = .sdec) (hws : wordSize? s.W = some ws) (hX : s.BUF.readList 0 s.BCNT.toNat = some X)
    (hT : s.table? ws = some T) (hH : s.HVALID = true → s.HOLD.readList 0 ws.blockBytes = some H)
    (h : s.BCNT.toNat + 1 = ws.blockBytes) :
    ∃ a a' k, exec (.din b) s = .next
      { s with BUF := s.BUF.write s.BCNT.toNat b, BCNT := 0#5,
               HOLD := s.HOLD.writeList 0 (decBlock ws T s.R.toNat (X ++ [b])), HVALID := true,
               OUT := s.OUT ++ (if s.HVALID = true then H else []), A := a, B := a', k := k } := by
  let s1 : State := { s with BUF := s.BUF.write s.BCNT.toNat b, BCNT := s.BCNT + 1#5 }
  have hblock : s1.BUF.readList 0 ws.blockBytes = some (X ++ [b]) := readList_write_complete b hX h
  have htable : s1.table? ws = some T := hT
  have hheld : s1.heldBlock? ws = some (if s.HVALID = true then H else []) := heldBlock?_of_held hH
  obtain ⟨u, hout, hu⟩ := decryptBuf?_some hblock htable
  refine ⟨u.A, u.B, u.k, (exec_din_of_sdec b hready hsdec hws).trans ((pushThen_of_complete b _ h).trans ?_)⟩
  rw [hheld, need_some, hout, need_some, hu]
  rfl

theorem readList_writeList_decBlock (m : Memory Byte) (T : List (BitVec ws.bits)) (r : Nat) (X : List Byte) :
    (m.writeList 0 (decBlock ws T r X)).readList 0 ws.blockBytes = some (decBlock ws T r X) := by
  have h := Memory.readList_writeList m 0 (decBlock ws T r X)
  rwa [decBlock_length] at h

/-! ### SEND -/

theorem exec_send_of_senc (hready : s.ERR = .noFault) (hsenc : s.MODE = .senc) : exec .send s = sendSenc s := by
  refine (accept_ready _ hready).trans ?_
  simp only [hsenc]

theorem exec_send_of_sdec (hready : s.ERR = .noFault) (hsdec : s.MODE = .sdec) : exec .send s = sendSdec s := by
  refine (accept_ready _ hready).trans ?_
  simp only [hsdec]

/-- R148: a chunk of at most a block, with zeros up to a whole block. -/
def padChunk (ws : WordSize) (X : List Byte) : List Byte := X ++ List.replicate (ws.blockBytes - X.length) 0#8

theorem padChunk_length {X : List Byte} (h : X.length ≤ ws.blockBytes) : (padChunk ws X).length = ws.blockBytes := by
  simp only [padChunk, List.length_append, List.length_replicate]
  omega

theorem padChunk_of_whole {X : List Byte} (h : X.length = ws.blockBytes) : padChunk ws X = X := by
  simp [padChunk, h]

theorem readList_padBuf {X : List Byte} (hX : s.BUF.readList 0 s.BCNT.toNat = some X)
    (h : s.BCNT.toNat ≤ ws.blockBytes) : (s.padBuf ws).BUF.readList 0 ws.blockBytes = some (padChunk ws X) := by
  have hpad := Memory.readList_writeList_end (List.replicate (ws.blockBytes - s.BCNT.toNat) 0#8) hX
  rw [List.length_replicate, Nat.add_sub_cancel' h] at hpad
  rw [State.padBuf_BUF, hpad, padChunk, Memory.readList_length hX]

theorem read_padBuf_above {a : Nat} (h : s.BCNT.toNat ≤ ws.blockBytes) (ha : ws.blockBytes ≤ a) :
    (s.padBuf ws).BUF.read a = s.BUF.read a :=
  Memory.read_writeList_other _ _ (by rw [List.length_replicate]; omega)

/-- R148: a last chunk that is not whole, or a stream that has emitted nothing. -/
theorem exec_send_pads {X : List Byte} {T : List (BitVec ws.bits)} (hready : s.ERR = .noFault)
    (hsenc : s.MODE = .senc) (hws : wordSize? s.W = some ws) (howed : s.BCNT ≠ 0#5 ∨ s.SANY = false)
    (hX : s.BUF.readList 0 s.BCNT.toNat = some X) (hT : s.table? ws = some T) (h : s.BCNT.toNat ≤ ws.blockBytes) :
    ∃ a a' k, exec .send s = .next
      { s with BUF := (s.padBuf ws).BUF, BCNT := 0#5, MODE := .idle, SANY := false,
               OUT := s.OUT ++ encBlock ws T s.R.toNat (padChunk ws X), A := a, B := a', k := k } := by
  have htable : (s.padBuf ws).table? ws = some T := hT
  obtain ⟨u, hout, hu⟩ := encryptBuf?_some (readList_padBuf hX h) htable
  refine ⟨u.A, u.B, u.k, (exec_send_of_senc hready hsenc).trans ?_⟩
  rw [sendSenc, if_pos howed, withWordSize_some _ hws, hout, need_some, hu]
  rfl

theorem exec_send_of_whole (hready : s.ERR = .noFault) (hsenc : s.MODE = .senc) (hempty : s.BCNT = 0#5)
    (hany : s.SANY = true) : exec .send s = .next { s with MODE := .idle, SANY := false } :=
  (exec_send_of_senc hready hsenc).trans (if_neg (by simp [hempty, hany]))

theorem exec_send_inputShapeError (hready : s.ERR = .noFault) (hsdec : s.MODE = .sdec) (hrest : s.BCNT ≠ 0#5) :
    exec .send s = .next { s with ERR := .inputShapeError, ERRCMD := encode .send } :=
  (exec_send_of_sdec hready hsdec).trans (if_pos hrest)

theorem exec_send_of_nothing (hready : s.ERR = .noFault) (hsdec : s.MODE = .sdec) (hempty : s.BCNT = 0#5)
    (hheld : s.HVALID = false) : exec .send s = .next { s with MODE := .idle } :=
  (exec_send_of_sdec hready hsdec).trans ((if_neg (not_not.2 hempty)).trans (if_neg (by simp [hheld])))

theorem exec_send_strips {H : List Byte} (hready : s.ERR = .noFault) (hsdec : s.MODE = .sdec) (hempty : s.BCNT = 0#5)
    (hheld : s.HVALID = true) (hws : wordSize? s.W = some ws) (hH : s.HOLD.readList 0 ws.blockBytes = some H) :
    exec .send s = .next { s with OUT := s.OUT ++ stripZeros H, HVALID := false, MODE := .idle } := by
  have hblock : s.heldBlock? ws = some H := (if_pos hheld).trans hH
  refine (exec_send_of_sdec hready hsdec).trans ?_
  rw [sendSdec, if_neg (not_not.2 hempty), if_pos hheld, withWordSize_some _ hws, hblock, need_some]
  rfl

end

end Sys2Proof.Machine

open Sys2Proof Sys2Proof.Machine

/-- Settles O19: past the checks SBEGIN sets the mode; each check that fails raises the same fault. -/
theorem sbeginOpensAStream : Obligations.SbeginOpensAStream := fun _ dir hready =>
  ⟨fun hidle hvalid hempty =>
      (exec_sbegin_of_closed dir hready hidle hvalid hempty).trans (by cases dir <;> rfl),
    exec_sbegin_sequenceError dir hready⟩

/-- Settles O20, by whether the byte completes a block. -/
theorem dinSencEncryptsEachBlock : Obligations.DinSencEncryptsEachBlock := by
  intro s b ws X T hready hsenc hws hX hT
  refine ⟨fun h => ?_, fun h => ?_⟩
  · exact ⟨_, exec_din_stores b hready (.inl hsenc) hws h, rfl, Memory.readList_write_end b hX,
      fun _ => Memory.read_write_other _ b⟩
  · obtain ⟨a, a', k, hexec⟩ := exec_din_encrypts b hready hsenc hws hX hT h
    exact ⟨_, hexec, rfl, readList_write_complete b hX h, fun _ => Memory.read_write_other _ b⟩

/-- Settles O21, by whether the byte completes a block. -/
theorem dinSdecHoldsTheLastBlock : Obligations.DinSdecHoldsTheLastBlock := by
  intro s b ws X H T hready hsdec hws hX hT hH
  refine ⟨fun h => ?_, fun h => ?_⟩
  · exact ⟨_, exec_din_stores b hready (.inr hsdec) hws h, rfl, Memory.readList_write_end b hX,
      fun _ => Memory.read_write_other _ b⟩
  · obtain ⟨a, a', k, hexec⟩ := exec_din_holds b hready hsdec hws hX hT hH h
    exact ⟨_, hexec, rfl, readList_write_complete b hX h, fun _ => Memory.read_write_other _ b,
      readList_writeList_decBlock .., fun _ ha => Memory.read_writeList_other _ _ (by rw [decBlock_length]; omega)⟩

/-- Settles O22, by whether a block is owed. -/
theorem sendSencPadsTheLastBlock : Obligations.SendSencPadsTheLastBlock := by
  intro s ws hready hsenc hws
  refine ⟨fun X T howed hroom hX hT => ?_, exec_send_of_whole hready hsenc⟩
  obtain ⟨a, a', k, hexec⟩ := exec_send_pads hready hsenc hws howed hX hT hroom.le
  exact ⟨_, hexec, rfl, readList_padBuf hX hroom.le, fun _ => read_padBuf_above hroom.le⟩

/-- Settles O23, by the check of BCNT and whether a block is held. -/
theorem sendSdecStripsTheLastBlock : Obligations.SendSdecStripsTheLastBlock := fun _ hready hsdec =>
  ⟨exec_send_inputShapeError hready hsdec, exec_send_of_nothing hready hsdec,
    fun _ _ => exec_send_strips hready hsdec⟩

end

section
/-! ## Proofs of the statements about the StreamCodec, 43_stream.md

Every byte sequence is whole blocks and a shorter rest (`Framed`), and so whole blocks and a last chunk (`Chunked`).
Encode and Decode are said once of that form; the statements follow from the list of blocks alone. -/

namespace Sys2Proof.Machine

open Sys2Proof

/-! ### StripZeros -/

theorem stripZeros_concat (Y : List Byte) (x : Byte) :
    stripZeros (Y ++ [x]) = if x = 0#8 then stripZeros Y else Y ++ [x] := by
  induction Y with
  | nil => rfl
  | cons y ys ih =>
    by_cases hx : x = 0#8
    · rw [if_pos hx] at ih ⊢
      rw [List.cons_append, stripZeros, ih, stripZeros]
    · rw [if_neg hx] at ih ⊢
      rw [List.cons_append, stripZeros, ih]
      cases ys <;> rfl

/-- R151: StripZeros is the library's removal of a tail. -/
theorem stripZeros_eq_rdropWhile (Y : List Byte) : stripZeros Y = Y.rdropWhile (· = 0#8) := by
  induction Y using List.reverseRecOn with
  | nil => rfl
  | append_singleton Y x ih => simp [stripZeros_concat, List.rdropWhile_concat, ih]

theorem stripZeros_append_zeros (Y : List Byte) (n : Nat) :
    stripZeros (Y ++ List.replicate n 0#8) = stripZeros Y := by
  induction n with
  | zero => simp
  | succ n ih => rw [List.replicate_succ', ← List.append_assoc, stripZeros_concat, if_pos rfl, ih]

theorem exists_eq_stripZeros_append (Y : List Byte) : ∃ n, Y = stripZeros Y ++ List.replicate n 0#8 := by
  have hzeros : ∀ x ∈ Y.rtakeWhile (· = 0#8), x = 0#8 := fun x hx => by
    simpa using List.mem_rtakeWhile_imp hx
  refine ⟨(Y.rtakeWhile (· = 0#8)).length, ?_⟩
  rw [← List.eq_replicate_of_mem hzeros, stripZeros_eq_rdropWhile, List.rdropWhile_append_rtakeWhile]

theorem stripZeros_length_le (Y : List Byte) : (stripZeros Y).length ≤ Y.length :=
  stripZeros_eq_rdropWhile Y ▸ (List.rdropWhile_prefix _ Y).length_le

theorem stripZeros_eq_self_iff {Y : List Byte} : stripZeros Y = Y ↔ Y.getLast? ≠ some 0#8 := by
  rw [stripZeros_eq_rdropWhile, List.rdropWhile_eq_self_iff]
  cases h : Y.getLast? with
  | none => simp [List.getLast?_eq_none_iff.1 h]
  | some x =>
    obtain ⟨D, rfl⟩ := List.getLast?_eq_some_iff.1 h
    simp

/-- What is left ends in no zero, for another StripZeros takes nothing more. -/
theorem stripZeros_getLast? (Y : List Byte) : (stripZeros Y).getLast? ≠ some 0#8 := by
  rw [← stripZeros_eq_self_iff, stripZeros_eq_rdropWhile Y, stripZeros_eq_rdropWhile, List.rdropWhile_idempotent]

/-! ### Bytes as whole blocks and a rest -/

/-- Every list is a whole block. -/
def Whole (ws : WordSize) (C : List (List Byte)) : Prop := ∀ Z ∈ C, Z.length = ws.blockBytes

/-- `p` is the whole blocks `C` and then the bytes `X`, too few for one more. -/
structure Framed (ws : WordSize) (p : List Byte) (C : List (List Byte)) (X : List Byte) : Prop where
  bytes : p = C.flatten ++ X
  whole : Whole ws C
  short : X.length < ws.blockBytes

section
variable {ws : WordSize} {C D : List (List Byte)} {p q X Z : List Byte} {b : Byte}

theorem Whole.nil : Whole ws [] := by simp [Whole]

theorem Whole.append (hC : Whole ws C) (hD : Whole ws D) : Whole ws (C ++ D) :=
  List.forall_mem_append.2 ⟨hC, hD⟩

theorem Whole.concat_iff : Whole ws (C ++ [Z]) ↔ Whole ws C ∧ Z.length = ws.blockBytes :=
  List.forall_mem_append.trans (and_congr_right fun _ => List.forall_mem_singleton)

theorem Whole.map {f : List Byte → List Byte} (hf : ∀ Z, (f Z).length = ws.blockBytes) : Whole ws (C.map f) := by
  simp [Whole, hf]

theorem flatMap_length {f : List Byte → List Byte} (hf : ∀ Z ∈ C, (f Z).length = ws.blockBytes) :
    (C.flatMap f).length = C.length * ws.blockBytes := by
  induction C with
  | nil => simp
  | cons Z C ih =>
    obtain ⟨hZ, hC⟩ := List.forall_mem_cons.1 hf
    rw [List.flatMap_cons, List.length_append, hZ, ih hC, List.length_cons, Nat.succ_mul, Nat.add_comm]

theorem Whole.flatten_length (hC : Whole ws C) : C.flatten.length = C.length * ws.blockBytes := by
  rw [← List.flatMap_id]
  exact flatMap_length hC

theorem Whole.append_length (hC : Whole ws C) (X : List Byte) :
    (C.flatten ++ X).length = C.length * ws.blockBytes + X.length := by
  rw [List.length_append, hC.flatten_length]

theorem Whole.exists_concat (hC : Whole ws C) (hne : C ≠ []) :
    ∃ D Z, C = D ++ [Z] ∧ Whole ws D ∧ Z.length = ws.blockBytes := by
  obtain ⟨D, Z, rfl⟩ := (List.eq_nil_or_concat' C).resolve_left hne
  exact ⟨D, Z, rfl, Whole.concat_iff.1 hC⟩

/-! The framer takes the bytes one by one. -/

theorem Framed.nil : Framed ws [] [] [] := ⟨rfl, .nil, wordSize_blockBytes_pos ws⟩

theorem Framed.store (h : Framed ws p C X) (hroom : X.length + 1 < ws.blockBytes) :
    Framed ws (p ++ [b]) C (X ++ [b]) :=
  ⟨by rw [h.bytes, List.append_assoc], h.whole, by simpa using hroom⟩

theorem Framed.complete (h : Framed ws p C X) (hfull : X.length + 1 = ws.blockBytes) :
    Framed ws (p ++ [b]) (C ++ [X ++ [b]]) [] :=
  ⟨by simp [h.bytes], Whole.concat_iff.2 ⟨h.whole, by simpa using hfull⟩, wordSize_blockBytes_pos ws⟩

theorem exists_framed (ws : WordSize) (p : List Byte) : ∃ C X, Framed ws p C X := by
  induction p using List.reverseRecOn with
  | nil => exact ⟨[], [], .nil⟩
  | append_singleton p b ih =>
    obtain ⟨C, X, h⟩ := ih
    rcases Nat.lt_or_eq_of_le (Nat.succ_le_of_lt h.short) with hroom | hfull
    · exact ⟨_, _, h.store hroom⟩
    · exact ⟨_, _, h.complete hfull⟩

theorem Framed.length (h : Framed ws p C X) : p.length = C.length * ws.blockBytes + X.length := by
  rw [h.bytes, h.whole.append_length]

theorem Framed.length_mod (h : Framed ws p C X) : p.length % ws.blockBytes = X.length := by
  rw [h.length, Nat.mul_add_mod_of_lt h.short]

theorem Framed.length_div (h : Framed ws p C X) : p.length / ws.blockBytes = C.length := by
  rw [h.length, Nat.mul_comm, Nat.mul_add_div (wordSize_blockBytes_pos ws), Nat.div_eq_of_lt h.short, Nat.add_zero]

/-- A whole number of blocks leaves no rest. -/
theorem exists_whole_of_mod_eq_zero (h : p.length % ws.blockBytes = 0) : ∃ C, p = C.flatten ∧ Whole ws C := by
  obtain ⟨C, X, hp⟩ := exists_framed ws p
  obtain rfl : X = [] := List.eq_nil_of_length_eq_zero (hp.length_mod.symm.trans h)
  exact ⟨C, by simpa using hp.bytes, hp.whole⟩

/-! ### Block by block -/

theorem blockAt_zero (hZ : Z.length = ws.blockBytes) : blockAt ws (Z ++ X) 0 = Z := by
  simp [blockAt, slice, ← hZ]

theorem blockAt_succ (hZ : Z.length = ws.blockBytes) (n : Nat) : blockAt ws (Z ++ X) (n + 1) = blockAt ws X n := by
  rw [blockAt, blockAt, slice, slice, Nat.succ_mul, Nat.add_comm, ← hZ, List.drop_length_add_append]

/-- Working on the blocks of a sequence by their numbers is working on the list of its blocks. -/
theorem flatMap_blockAt (f : List Byte → List Byte) (hC : Whole ws C) :
    ((List.range C.length).flatMap fun n => f (blockAt ws (C.flatten ++ X) n)) = C.flatMap f := by
  induction C with
  | nil => rfl
  | cons Z C ih =>
    obtain ⟨hZ, hC⟩ := List.forall_mem_cons.1 hC
    simp only [List.length_cons, List.range_succ_eq_map, List.flatMap_cons, List.flatMap_map, List.flatten_cons,
      List.append_assoc, blockAt_zero hZ, blockAt_succ hZ, ih hC]

theorem blockAt_flatten (hC : Whole ws C) (hZ : Z.length = ws.blockBytes) :
    blockAt ws (C.flatten ++ Z) C.length = Z := by
  rw [blockAt, slice, ← hC.flatten_length, List.drop_left, ← hZ, List.take_length]

/-! ### The last chunk of a plaintext, R152 -/

theorem encodeBlocks_eq_succ_iff {n m : Nat} :
    encodeBlocks ws n = m + 1 ↔ n ≤ (m + 1) * ws.blockBytes ∧ (m * ws.blockBytes < n ∨ m = 0) := by
  cases ws <;> simp only [encodeBlocks, WordSize.blockBytes, WordSize.bits] <;> omega

/-- `p` is the whole blocks `C` and the last chunk `X`, which is empty only in the empty sequence. -/
structure Chunked (ws : WordSize) (p : List Byte) (C : List (List Byte)) (X : List Byte) : Prop where
  bytes : p = C.flatten ++ X
  whole : Whole ws C
  fits : X.length ≤ ws.blockBytes
  last : X ≠ [] ∨ C = []

theorem Framed.chunked (h : Framed ws p C X) (hlast : X ≠ [] ∨ C = []) : Chunked ws p C X :=
  ⟨h.bytes, h.whole, h.short.le, hlast⟩

theorem Chunked.of_whole (hC : Whole ws C) (hZ : Z.length = ws.blockBytes) :
    Chunked ws (C ++ [Z]).flatten C Z :=
  ⟨by simp, hC, hZ.le, .inl (List.ne_nil_of_length_pos (hZ ▸ wordSize_blockBytes_pos ws))⟩

theorem exists_chunked (ws : WordSize) (p : List Byte) : ∃ C X, Chunked ws p C X := by
  obtain ⟨C, X, h⟩ := exists_framed ws p
  by_cases hlast : X ≠ [] ∨ C = []
  · exact ⟨C, X, h.chunked hlast⟩
  · obtain ⟨hX, hC⟩ := not_or.1 hlast
    obtain ⟨D, Z, rfl, hD, hZ⟩ := h.whole.exists_concat hC
    exact ⟨D, Z, by simpa [h.bytes, not_not.1 hX] using Chunked.of_whole hD hZ⟩

theorem Chunked.encodeBlocks_eq (h : Chunked ws p C X) : encodeBlocks ws p.length = C.length + 1 := by
  have hlen : p.length = C.length * ws.blockBytes + X.length := by
    rw [h.bytes, h.whole.append_length]
  have hfits := h.fits
  refine encodeBlocks_eq_succ_iff.2 ⟨by rw [Nat.succ_mul]; omega, h.last.imp (fun hX => ?_) (fun hC => by simp [hC])⟩
  have := List.length_pos_of_ne_nil hX
  omega

theorem Chunked.padPlain_eq (h : Chunked ws p C X) : padPlain ws p = C.flatten ++ padChunk ws X := by
  have hpad : (C.length + 1) * ws.blockBytes - p.length = ws.blockBytes - X.length := by
    rw [h.bytes, h.whole.append_length, Nat.succ_mul, Nat.add_sub_add_left]
  rw [padPlain, h.encodeBlocks_eq, hpad, h.bytes, List.append_assoc, padChunk]

/-- Blocks ahead of a chunked sequence are more of its blocks. -/
theorem Chunked.blocks_append (h : Chunked ws q C X) (hq : q ≠ []) (hD : Whole ws D) :
    Chunked ws (D.flatten ++ q) (D ++ C) X where
  bytes := by rw [h.bytes, List.flatten_append, List.append_assoc]
  whole := hD.append h.whole
  fits := h.fits
  last := .inl fun hX => hq (by simp [h.bytes, hX, h.last.resolve_left (not_not.2 hX)])

/-! ### Encode and Decode of whole blocks and a last chunk -/

section
variable (T : List (BitVec ws.bits)) (r : Nat)

/-- R152: the blocks encrypted, then the last chunk padded and encrypted. -/
theorem Chunked.encodeStream_eq (h : Chunked ws p C X) :
    encodeStream ws T r p = C.flatMap (encBlock ws T r) ++ encBlock ws T r (padChunk ws X) := by
  rw [encodeStream, h.encodeBlocks_eq, h.padPlain_eq, List.range_succ, List.flatMap_append, flatMap_blockAt _ h.whole,
    List.flatMap_singleton, blockAt_flatten h.whole (padChunk_length h.fits)]

/-- A whole number of blocks is encoded with no padding. -/
theorem encodeStream_flatten (hC : Whole ws C) (hne : C ≠ []) :
    encodeStream ws T r C.flatten = C.flatMap (encBlock ws T r) := by
  obtain ⟨D, Z, rfl, hD, hZ⟩ := hC.exists_concat hne
  rw [(Chunked.of_whole hD hZ).encodeStream_eq, padChunk_of_whole hZ, List.flatMap_append, List.flatMap_singleton]

theorem decryptBlocks_flatten (hC : Whole ws C) :
    decryptBlocks ws T r (C.flatten ++ X) C.length = C.flatMap (decBlock ws T r) := flatMap_blockAt _ hC

theorem decryptBlocks_dropLast (hC : Whole ws C) :
    decryptBlocks ws T r (C.flatten ++ X) (C.length - 1) = C.dropLast.flatMap (decBlock ws T r) := by
  by_cases hne : C = []
  · subst hne
    rfl
  · obtain ⟨D, Z, rfl, hD, -⟩ := hC.exists_concat hne
    have hblocks := decryptBlocks_flatten (X := Z ++ X) T r hD
    simpa using hblocks

/-- R153: the blocks decrypted, the last one stripped. -/
theorem decodeStream_flatten_append (hC : Whole ws C) (hZ : Z.length = ws.blockBytes) :
    decodeStream ws T r (C.flatten ++ Z) = C.flatMap (decBlock ws T r) ++ stripZeros (decBlock ws T r Z) := by
  have hdiv : (C.flatten ++ Z).length / ws.blockBytes = C.length + 1 := by
    rw [hC.append_length, hZ, ← Nat.succ_mul, Nat.mul_div_cancel _ (wordSize_blockBytes_pos ws)]
  rw [decodeStream, hdiv]
  exact congrArg₂ _ (decryptBlocks_flatten T r hC) (by rw [blockAt_flatten hC hZ])

theorem decodeStream_nil : decodeStream ws T r [] = [] := by
  rw [decodeStream, List.length_nil, Nat.zero_div]

/-- R155: all but the last chunk comes back unchanged. -/
theorem Chunked.decodeStream_encodeStream (h : Chunked ws p C X) :
    decodeStream ws T r (encodeStream ws T r p) = C.flatten ++ stripZeros X := by
  have hinv : ∀ Z ∈ C, decBlock ws T r (encBlock ws T r Z) = Z := fun Z hZ => decBlock_encBlock ws T r (h.whole Z hZ)
  rw [h.encodeStream_eq, List.flatMap_def,
    decodeStream_flatten_append T r (.map (encBlock_length ws T r)) (encBlock_length ..),
    decBlock_encBlock ws T r (padChunk_length h.fits), padChunk, stripZeros_append_zeros, List.flatMap_map,
    List.flatMap_congr hinv, List.flatMap_id']

theorem Chunked.decodeStream_encodeStream_eq_iff (h : Chunked ws p C X) :
    decodeStream ws T r (encodeStream ws T r p) = p ↔ p.getLast? ≠ some 0#8 := by
  have hlast : p.getLast? = X.getLast? := by
    rcases h.last with hX | rfl
    · rw [h.bytes, List.getLast?_append_of_ne_nil _ hX]
    · rw [h.bytes, List.flatten_nil, List.nil_append]
  rw [h.decodeStream_encodeStream, hlast, ← stripZeros_eq_self_iff, h.bytes, List.append_cancel_left_eq]

end

end

end Sys2Proof.Machine

open Sys2Proof Sys2Proof.Machine

/-- Settles O49: what is taken is a run of zeros, and what is left does not end in one. -/
theorem stripZerosRemovesTheTail : Obligations.StripZerosRemovesTheTail := by
  intro Y
  refine ⟨exists_eq_stripZeros_append Y, ?_⟩
  cases h : (stripZeros Y).getLast? with
  | none => exact .inl (List.getLast?_eq_none_iff.1 h)
  | some x => exact .inr ⟨x, rfl, fun hx => stripZeros_getLast? Y (hx ▸ h)⟩

/-- Settles O50: every block gives a block, and StripZeros shortens the last by at most a block. -/
theorem codecLengths : Obligations.CodecLengths := by
  intro ws T r
  refine ⟨fun p => ?_, fun ct hne hmod => ?_, decodeStream_nil T r⟩
  · obtain ⟨C, X, h⟩ := exists_chunked ws p
    have hm := h.encodeBlocks_eq
    rw [encodeBlocks] at hm
    rw [hm, h.encodeStream_eq, List.length_append, flatMap_length fun _ _ => encBlock_length .., encBlock_length,
      ← Nat.succ_mul, Nat.mul_comm]
  · obtain ⟨C, rfl, hC⟩ := exists_whole_of_mod_eq_zero hmod
    obtain ⟨D, Z, rfl, hD, hZ⟩ := hC.exists_concat fun h => hne (by simp [h])
    have hstrip := stripZeros_length_le (decBlock ws T r Z)
    rw [decBlock_length] at hstrip
    have hlen := flatMap_length (C := D) fun Z _ => decBlock_length ws T r Z
    rw [List.flatten_append, List.flatten_singleton, decodeStream_flatten_append T r hD hZ, hD.append_length,
      List.length_append, hlen, hZ]
    omega

/-- Settles O51: blocks come back as they were, and StripZeros takes the padding of the last chunk with its zeros. -/
theorem codecRoundTrip : Obligations.CodecRoundTrip := by
  intro ws T r p
  obtain ⟨C, X, h⟩ := exists_chunked ws p
  constructor
  · rw [h.encodeBlocks_eq, Nat.add_sub_cancel, ← h.whole.flatten_length, h.decodeStream_encodeStream, h.bytes,
      List.take_left, List.drop_left]
  · rw [h.decodeStream_encodeStream_eq_iff]
    exact ⟨.inr, fun hp => hp.elim (by rintro rfl; simp) id⟩

/-- Settles O52, by the list of blocks of the one and the chunks of the other. -/
theorem blocksAreIndependent : Obligations.BlocksAreIndependent := by
  intro ws T r p q hp hq hmod
  obtain ⟨D, rfl, hD⟩ := exists_whole_of_mod_eq_zero hmod
  obtain ⟨C, X, h⟩ := exists_chunked ws q
  rw [(h.blocks_append hq hD).encodeStream_eq, h.encodeStream_eq, encodeStream_flatten T r hD fun h => hp (by simp [h]),
    List.flatMap_append, List.append_assoc]

end

section
/-! ## Proofs of the statements about whole streams, 43_stream.md section 2

DIN frames the bytes of a stream as `Framed` does, so one induction over the bytes serves both directions
(`runCommands_map_din`): the state after some bytes is a function of their blocks and rest, but for BUF, HOLD and the
scratch registers (`EncodeProgress`, `DecodeProgress`). -/

namespace Sys2Proof.Machine

open Sys2Proof

/-! ### Runs of commands -/

section
variable {s t u : State} {i : Instr} {is : List Instr}

theorem runCommands_cons (h : exec i s = .next t) : runCommands (i :: is) s = runCommands is t := by
  rw [runCommands, h]

theorem runCommands_singleton (h : exec i s = .next t) : runCommands [i] s = .next t := runCommands_cons h

theorem runCommands_append (js : List Instr) (h : runCommands is s = .next t) :
    runCommands (is ++ js) s = runCommands js t := by
  induction is generalizing s with
  | nil => cases h; rfl
  | cons i is ih =>
    rw [runCommands] at h
    split at h
    next v hv => exact (runCommands_cons hv).trans (ih h)
    · cases h
    · cases h

theorem runCommands_stream {dir : Direction} {p : List Byte} {v : State} (hopen : exec (.sbegin dir) s = .next t)
    (hdata : runCommands (p.map .din) t = .next u) (hclose : exec .send u = .next v) :
    runCommands (.sbegin dir :: p.map .din ++ [.send]) s = .next v :=
  (runCommands_append _ ((runCommands_cons hopen).trans hdata)).trans (runCommands_singleton hclose)

/-- What a DIN keeps, storing a byte or completing a block, holds after the DINs of any bytes. -/
theorem runCommands_map_din {ws : WordSize} {P : List (List Byte) → List Byte → State → Prop} (hstart : P [] [] s)
    (hstore : ∀ {C X t} b, X.length + 1 < ws.blockBytes → P C X t →
      ∃ u, exec (.din b) t = .next u ∧ P C (X ++ [b]) u)
    (hcomplete : ∀ {C X t} b, X.length + 1 = ws.blockBytes → P C X t →
      ∃ u, exec (.din b) t = .next u ∧ P (C ++ [X ++ [b]]) [] u) (p : List Byte) :
    ∃ C X t, Framed ws p C X ∧ runCommands (p.map .din) s = .next t ∧ P C X t := by
  induction p using List.reverseRecOn with
  | nil => exact ⟨[], [], s, .nil, rfl, hstart⟩
  | append_singleton p b ih =>
    obtain ⟨C, X, t, hframed, hrun, hP⟩ := ih
    have hlast : runCommands ((p ++ [b]).map .din) s = runCommands [.din b] t := by
      rw [List.map_append, runCommands_append _ hrun, List.map_singleton]
    rcases Nat.lt_or_eq_of_le (Nat.succ_le_of_lt hframed.short) with hroom | hfull
    · obtain ⟨u, hexec, hu⟩ := hstore b hroom hP
      exact ⟨C, X ++ [b], u, hframed.store hroom, hlast.trans (runCommands_singleton hexec), hu⟩
    · obtain ⟨u, hexec, hu⟩ := hcomplete b hfull hP
      exact ⟨C ++ [X ++ [b]], [], u, hframed.complete hfull,
        hlast.trans (runCommands_singleton hexec), hu⟩

end

/-! ### What a stream reads and does not change -/

/-- No fault is latched, and the word size and the table are `ws` and `T`. -/
structure CipherReady (s : State) (ws : WordSize) (T : List (BitVec ws.bits)) : Prop where
  ready : s.ERR = .noFault
  size : wordSize? s.W = some ws
  table : s.table? ws = some T

theorem CipherReady.congr {s t : State} {ws : WordSize} {T : List (BitVec ws.bits)} (h : CipherReady s ws T)
    (hERR : t.ERR = s.ERR) (hW : t.W = s.W) (hS : t.S = s.S) (hR : t.R = s.R) : CipherReady t ws T :=
  ⟨hERR.trans h.ready, hW ▸ h.size, (table?_congr ws hS hR).trans h.table⟩

/-- A number of bytes below a block, as BCNT holds it. -/
theorem ofNat_length_toNat {ws : WordSize} {X : List Byte} (h : X.length + 1 ≤ ws.blockBytes) :
    (BitVec.ofNat 5 X.length).toNat = X.length := by
  have := wordSize_blockBytes_le ws
  rw [BitVec.toNat_ofNat, Nat.mod_eq_of_lt (by omega)]

theorem bcnt_ne_zero {t : State} {X : List Byte} (hcount : t.BCNT.toNat = X.length) (hX : X ≠ []) : t.BCNT ≠ 0#5 :=
  fun h => hX (List.eq_nil_of_length_eq_zero (hcount.symm.trans (by rw [h]; rfl)))

section
variable {s t : State} {ws : WordSize} {T : List (BitVec ws.bits)} {C : List (List Byte)} {X p : List Byte} (b : Byte)

/-! ### The encode stream, R152 -/

/-- `t` is what an encode stream opened in `s` has come to after the blocks `C` and the bytes `X`. -/
structure EncodeProgress (s : State) (ws : WordSize) (T : List (BitVec ws.bits)) (C : List (List Byte)) (X : List Byte)
    (t : State) : Prop where
  frame : t = { s with MODE := .senc, SANY := !C.isEmpty, BUF := t.BUF, BCNT := BitVec.ofNat 5 X.length,
                       OUT := s.OUT ++ C.flatMap (encBlock ws T s.R.toNat), A := t.A, B := t.B, k := t.k }
  waiting : t.BUF.readList 0 X.length = some X

theorem EncodeProgress.cipherReady (h : EncodeProgress s ws T C X t) (hs : CipherReady s ws T) :
    CipherReady t ws T := by
  refine hs.congr ?_ ?_ ?_ ?_ <;> rw [h.frame]

theorem EncodeProgress.mode (h : EncodeProgress s ws T C X t) : t.MODE = .senc := congrArg State.MODE h.frame

theorem EncodeProgress.count (h : EncodeProgress s ws T C X t) (hX : X.length + 1 ≤ ws.blockBytes) :
    t.BCNT.toNat = X.length :=
  (congrArg (·.BCNT.toNat) h.frame).trans (ofNat_length_toNat hX)

theorem EncodeProgress.store (hs : CipherReady s ws T) (hroom : X.length + 1 < ws.blockBytes)
    (h : EncodeProgress s ws T C X t) :
    ∃ u, exec (.din b) t = .next u ∧ EncodeProgress s ws T C (X ++ [b]) u := by
  have ht := h.cipherReady hs
  have hcount := h.count hroom.le
  refine ⟨_, exec_din_stores b ht.ready (.inl h.mode) ht.size (by rwa [hcount]), ?_, ?_⟩
  · rw [h.frame]
    simp [BitVec.ofNat_add]
  · rw [List.length_append, hcount]
    exact Memory.readList_write_end b h.waiting

theorem EncodeProgress.complete (hs : CipherReady s ws T) (hfull : X.length + 1 = ws.blockBytes)
    (h : EncodeProgress s ws T C X t) :
    ∃ u, exec (.din b) t = .next u ∧ EncodeProgress s ws T (C ++ [X ++ [b]]) [] u := by
  have ht := h.cipherReady hs
  have hcount := h.count hfull.le
  obtain ⟨a, a', k, hexec⟩ :=
    exec_din_encrypts b ht.ready h.mode ht.size (hcount ▸ h.waiting) ht.table (by rwa [hcount])
  refine ⟨_, hexec, ?_, rfl⟩
  rw [h.frame]
  simp

/-- SEND closes the stream. -/
theorem EncodeProgress.send (hs : CipherReady s ws T) (hidle : s.MODE = .idle) (hempty : s.BCNT = 0#5)
    (hany : s.SANY = false) (hp : Framed ws p C X) (h : EncodeProgress s ws T C X t) :
    ∃ u, exec .send t = .next u ∧
      u = { s with BUF := u.BUF, OUT := s.OUT ++ encodeStream ws T s.R.toNat p, A := u.A, B := u.B, k := u.k } := by
  have ht := h.cipherReady hs
  have hcount := h.count hp.short
  by_cases hlast : X ≠ [] ∨ C = []
  · have howed : t.BCNT ≠ 0#5 ∨ t.SANY = false := by
      refine hlast.imp (bcnt_ne_zero hcount) fun hC => ?_
      rw [h.frame, hC]
      rfl
    obtain ⟨a, a', k, hexec⟩ := exec_send_pads ht.ready h.mode ht.size howed (hcount ▸ h.waiting) ht.table
      (hcount ▸ hp.short.le)
    refine ⟨_, hexec, ?_⟩
    rw [(hp.chunked hlast).encodeStream_eq, h.frame]
    simp [hidle, hempty, hany]
  · obtain ⟨hX, hC⟩ := not_or.1 hlast
    obtain rfl := not_not.1 hX
    have hsany : t.SANY = true := by
      rw [h.frame]
      simpa using hC
    refine ⟨_, exec_send_of_whole ht.ready h.mode (congrArg State.BCNT h.frame) hsany, ?_⟩
    rw [hp.bytes, List.append_nil, encodeStream_flatten T _ hp.whole hC, h.frame]
    simp [hidle, hempty, hany]

/-! ### The decode stream, R153 -/

/-- R147: what is held back after the blocks `C`: the decryption of the last. -/
def heldPlain (ws : WordSize) (T : List (BitVec ws.bits)) (r : Nat) (C : List (List Byte)) : List Byte :=
  C.getLast?.elim [] (decBlock ws T r)

theorem heldPlain_concat (r : Nat) (Z : List Byte) : heldPlain ws T r (C ++ [Z]) = decBlock ws T r Z := by
  simp [heldPlain]

/-- What is released and what is held back are all the decryptions. -/
theorem flatMap_dropLast_append_heldPlain (r : Nat) :
    C.dropLast.flatMap (decBlock ws T r) ++ (if C = [] then [] else heldPlain ws T r C) =
      C.flatMap (decBlock ws T r) := by
  cases C using List.reverseRecOn with
  | nil => rfl
  | append_singleton C Z => simp [heldPlain_concat]

/-- `t` is what a decode stream opened in `s` has come to after the blocks `C` and the bytes `X`. -/
structure DecodeProgress (s : State) (ws : WordSize) (T : List (BitVec ws.bits)) (C : List (List Byte)) (X : List Byte)
    (t : State) : Prop where
  frame : t = { s with MODE := .sdec, BUF := t.BUF, BCNT := BitVec.ofNat 5 X.length, HOLD := t.HOLD,
                       HVALID := !C.isEmpty, OUT := s.OUT ++ C.dropLast.flatMap (decBlock ws T s.R.toNat),
                       A := t.A, B := t.B, k := t.k }
  waiting : t.BUF.readList 0 X.length = some X
  held : t.HVALID = true → t.HOLD.readList 0 ws.blockBytes = some (heldPlain ws T s.R.toNat C)

theorem DecodeProgress.cipherReady (h : DecodeProgress s ws T C X t) (hs : CipherReady s ws T) :
    CipherReady t ws T := by
  refine hs.congr ?_ ?_ ?_ ?_ <;> rw [h.frame]

theorem DecodeProgress.mode (h : DecodeProgress s ws T C X t) : t.MODE = .sdec := congrArg State.MODE h.frame

theorem DecodeProgress.count (h : DecodeProgress s ws T C X t) (hX : X.length + 1 ≤ ws.blockBytes) :
    t.BCNT.toNat = X.length :=
  (congrArg (·.BCNT.toNat) h.frame).trans (ofNat_length_toNat hX)

theorem DecodeProgress.store (hs : CipherReady s ws T) (hroom : X.length + 1 < ws.blockBytes)
    (h : DecodeProgress s ws T C X t) :
    ∃ u, exec (.din b) t = .next u ∧ DecodeProgress s ws T C (X ++ [b]) u := by
  have ht := h.cipherReady hs
  have hcount := h.count hroom.le
  refine ⟨_, exec_din_stores b ht.ready (.inr h.mode) ht.size (by rwa [hcount]), ?_, ?_, h.held⟩
  · rw [h.frame]
    simp [BitVec.ofNat_add]
  · rw [List.length_append, hcount]
    exact Memory.readList_write_end b h.waiting

theorem DecodeProgress.complete (hs : CipherReady s ws T) (hfull : X.length + 1 = ws.blockBytes)
    (h : DecodeProgress s ws T C X t) :
    ∃ u, exec (.din b) t = .next u ∧ DecodeProgress s ws T (C ++ [X ++ [b]]) [] u := by
  have ht := h.cipherReady hs
  have hcount := h.count hfull.le
  obtain ⟨a, a', k, hexec⟩ :=
    exec_din_holds b ht.ready h.mode ht.size (hcount ▸ h.waiting) ht.table h.held (by rwa [hcount])
  refine ⟨_, hexec, ?_, rfl, fun _ => ?_⟩
  · rw [h.frame]
    simp [flatMap_dropLast_append_heldPlain]
  · rw [heldPlain_concat, congrArg State.R h.frame]
    exact readList_writeList_decBlock ..

/-- SEND after whole blocks releases the last one stripped. -/
theorem DecodeProgress.send (hs : CipherReady s ws T) (hidle : s.MODE = .idle) (hempty : s.BCNT = 0#5)
    (hheld : s.HVALID = false) (hC : Whole ws C) (h : DecodeProgress s ws T C [] t) :
    ∃ u, exec .send t = .next u ∧
      u = { s with BUF := u.BUF, HOLD := u.HOLD, OUT := s.OUT ++ decodeStream ws T s.R.toNat C.flatten,
                   A := u.A, B := u.B, k := u.k } := by
  have ht := h.cipherReady hs
  have hcount : t.BCNT = 0#5 := congrArg State.BCNT h.frame
  have hhvalid : t.HVALID = !C.isEmpty := congrArg State.HVALID h.frame
  by_cases hne : C = []
  · subst hne
    refine ⟨_, exec_send_of_nothing ht.ready h.mode hcount hhvalid, ?_⟩
    rw [List.flatten_nil, decodeStream_nil, h.frame]
    simp [hidle, hempty, hheld]
  · obtain ⟨D, Z, rfl, hD, hZ⟩ := hC.exists_concat hne
    have hholding : t.HVALID = true := hhvalid.trans (by simp)
    have hblock := h.held hholding
    rw [heldPlain_concat] at hblock
    refine ⟨_, exec_send_strips ht.ready h.mode hcount hholding ht.size hblock, ?_⟩
    rw [List.flatten_append, List.flatten_singleton, decodeStream_flatten_append T _ hD hZ, h.frame]
    simp [hidle, hempty, hheld]

end

/-! ### Opening a stream -/

theorem StateInv.exec_sbegin {s : State} (hinv : StateInv s) (dir : Direction) (hidle : s.MODE = .idle)
    (hvalid : s.TVALID = true) (hempty : s.BCNT = 0#5) (hready : s.ERR = .noFault) :
    exec (.sbegin dir) s = .next { s with MODE := Mode.ofDirection dir } := by
  have hany := hinv.sany_eq_false (by simp [hidle])
  have hheld := hinv.hvalid_eq_false (by simp [hidle])
  rw [exec_sbegin_of_closed dir hready hidle hvalid hempty]
  simp [hany, hheld]

theorem EncodeProgress.start {s : State} {ws : WordSize} {T : List (BitVec ws.bits)} (hempty : s.BCNT = 0#5)
    (hany : s.SANY = false) : EncodeProgress s ws T [] [] { s with MODE := .senc } :=
  ⟨by simp [hempty, hany], rfl⟩

theorem DecodeProgress.start {s : State} {ws : WordSize} {T : List (BitVec ws.bits)} (hempty : s.BCNT = 0#5)
    (hheld : s.HVALID = false) : DecodeProgress s ws T [] [] { s with MODE := .sdec } :=
  ⟨by simp [hempty, hheld], rfl, fun h => absurd h (by simp [hheld])⟩

end Sys2Proof.Machine

open Sys2Proof Sys2Proof.Machine

/-- Settles O53, by the progress of the stream over the bytes of `p`. -/
theorem encodeStreamIsEncode : Obligations.EncodeStreamIsEncode := by
  intro s ws T p hinv hidle hvalid hempty hready hws hT
  have hs : CipherReady s ws T := ⟨hready, hws, hT⟩
  have hany := hinv.sany_eq_false (by simp [hidle])
  have hopen := hinv.exec_sbegin .enc hidle hvalid hempty hready
  obtain ⟨C, X, t, hp, hdata, ht⟩ := runCommands_map_din (ws := ws) (P := EncodeProgress s ws T)
    (.start hempty hany) (fun b => EncodeProgress.store b hs) (fun b => EncodeProgress.complete b hs) p
  obtain ⟨u, hclose, hu⟩ := ht.send hs hidle hempty hany hp
  exact ⟨u, runCommands_stream hopen hdata hclose, hu⟩

/-- Settles O54, by the progress of the stream over the bytes of `ct`; what is left in BUF is the rest of `ct`. -/
theorem decodeStreamIsDecode : Obligations.DecodeStreamIsDecode := by
  intro s ws T ct hinv hidle hvalid hempty hready hws hT
  have hs : CipherReady s ws T := ⟨hready, hws, hT⟩
  have hheld := hinv.hvalid_eq_false (by simp [hidle])
  have hopen := hinv.exec_sbegin .dec hidle hvalid hempty hready
  obtain ⟨C, X, t, hct, hdata, ht⟩ := runCommands_map_din (ws := ws) (P := DecodeProgress s ws T)
    (.start hempty hheld) (fun b => DecodeProgress.store b hs) (fun b => DecodeProgress.complete b hs) ct
  rw [hct.length_mod, hct.length_div]
  refine ⟨fun hX => ?_, fun hX => ?_⟩
  · obtain rfl := List.eq_nil_of_length_eq_zero hX
    obtain ⟨u, hclose, hu⟩ := ht.send hs hidle hempty hheld hct.whole
    obtain rfl : ct = C.flatten := hct.bytes.trans (List.append_nil _)
    exact ⟨u, runCommands_stream hopen hdata hclose, hu⟩
  · have hrest := bcnt_ne_zero (ht.count hct.short) (mt List.length_eq_zero_iff.2 hX)
    have hclose := exec_send_inputShapeError (ht.cipherReady hs).ready ht.mode hrest
    refine ⟨_, runCommands_stream hopen hdata hclose, rfl, rfl, ?_⟩
    rw [hct.bytes, decryptBlocks_dropLast T _ hct.whole]
    exact congrArg State.OUT ht.frame

end

section
/-! ## Proofs of the statements about the system commands and the host, 44_system.md

Each command is one operation on the state, in every state: NOP none, ABORT the clearing of the fault latch and of the
framer, SRST the reset. SRST reads as the reset state does at every CSR. -/

namespace Sys2Proof.Machine

open Sys2Proof

/-- R165: ignored or executed, NOP has the same effect, none. -/
theorem exec_nop (s : State) : exec .nop s = .next s := by
  by_cases hready : s.ERR = .noFault
  · exact accept_ready _ hready
  · exact accept_faulted _ hready

theorem exec_abort (s : State) : exec .abort s = .next s.clearFault.clearFramer := rfl

theorem exec_srst (s : State) : exec .srst s = .next s.resetEngine := rfl

theorem perform_csrRead (n : BitVec 2) (s : State) : perform (.csrRead n) s = .next (s.observeCsr n) := rfl

/-- R200: the reset input does what SRST does. -/
theorem perform_assertReset (s : State) : perform .assertReset s = exec .srst s := rfl

/-- R201: what a CSR shows of the state is at its reset value. -/
@[simp] theorem csrRead_resetEngine (s : State) (n : BitVec 2) : s.resetEngine.csrRead n = 0#32 :=
  (csrRead_congr rfl rfl rfl rfl n).trans (csrRead_reset n)

/-- A reset keeps of the state before only what the host observed, what it will do, and the free values used. -/
theorem resetEngine_congr {s s' : State} (hOUT : s.OUT = s'.OUT) (hCSROUT : s.CSROUT = s'.CSROUT)
    (hpending : s.pending = s'.pending) (hfree : s.freeCount = s'.freeCount) : s.resetEngine = s'.resetEngine := by
  simp only [State.resetEngine, hOUT, hCSROUT, hpending, hfree]

end Sys2Proof.Machine

open Sys2Proof Sys2Proof.Machine

/-- Settles O11: a step takes the first of the host's actions, if there is one, and performs it. -/
theorem otherHostActions : Obligations.OtherHostActions :=
  ⟨fun _ hwait => step_of_pending_nil hwait,
    fun _ n _ hread => (step_of_pending_cons hread).trans (perform_csrRead n _),
    fun _ _ hreset => (step_of_pending_cons hreset).trans (perform_assertReset _)⟩

/-- Settles O24, by whether a fault is latched. -/
theorem nopHasNoEffect : Obligations.NopHasNoEffect := exec_nop

/-- Settles O25: the two clearings write six registers between them. -/
theorem abortClearsFaultAndFramer : Obligations.AbortClearsFaultAndFramer := exec_abort

/-- Settles O26: register by register the reset state, which is built from nothing else of the state before. -/
theorem srstResetsTheEngine : Obligations.SrstResetsTheEngine := by
  refine ⟨fun s => ⟨s.resetEngine, exec_srst s, ?_⟩, fun s s' hOUT hCSROUT hpending hfree => ?_⟩
  · simp
  · rw [exec_srst, exec_srst, resetEngine_congr hOUT hCSROUT hpending hfree]

end

section
/-! ## Proofs of the statements about faults and the common acceptance, 60_exceptions.md

What a command does in a state that meets the invariant is compared with the table of R190 command by command: each
condition of the table is one check of the rule, and where the table has no fault the invariant gives the elements the
rule reads. -/

namespace Sys2Proof.Machine

open Sys2Proof

section
variable {s t : State} {i : Instr} {cmd : CmdWord}

/-! ### The common acceptance -/

theorem decode_eq_error_of_illFormed (h : wordWellFormed cmd = false) : ∃ e, decode cmd = .error e := by
  cases hd : decode cmd with
  | error e => exact ⟨e, rfl⟩
  | ok i => exact absurd (wordWellFormed_iff_exists_instr.2 ⟨i, decode_eq_ok_iff.1 hd⟩) (by simp [h])

/-- R179: an illegal word in an engine that has no fault latched. -/
theorem execute_illegal {e : Illegal} (hready : s.ERR = .noFault) (hillegal : decode cmd = .error e) :
    execute cmd s = .next { s with ERR := .illegalCommand, ERRCMD := cmd } :=
  (execute_error hillegal).trans (accept_ready _ hready)

theorem exec_of_faulted (hfaulted : s.ERR ≠ .noFault) (habort : i ≠ .abort) (hsrst : i ≠ .srst) :
    exec i s = .next s := by
  cases i with
  | abort => exact absurd rfl habort
  | srst => exact absurd rfl hsrst
  | _ => exact accept_faulted _ hfaulted

/-- R182, R184: a faulted engine ignores every word, legal or not, that is neither ABORT nor SRST. -/
theorem execute_of_faulted (hfaulted : s.ERR ≠ .noFault) (habort : decode cmd ≠ .ok .abort)
    (hsrst : decode cmd ≠ .ok .srst) : execute cmd s = .next s := by
  cases hd : decode cmd with
  | error e => exact (execute_error hd).trans (accept_faulted _ hfaulted)
  | ok i =>
    exact (execute_ok hd).trans
      (exec_of_faulted hfaulted (fun h => habort (h ▸ hd)) (fun h => hsrst (h ▸ hd)))

/-! ### The fault code in STATUS -/

theorem errCode_code_eq_zero_iff {f : ErrCode} : f.code = 0#8 ↔ f = .noFault := by cases f <;> decide

/-- R36: STATUS[23:16] is the fault code. -/
theorem status_errField (s : State) : s.status.extractLsb' 16 8 = s.ERR.code := by
  have hbcnt := s.BCNT.isLt
  have hmode := s.MODE.code.isLt
  have hcode := s.ERR.code.isLt
  have hcfgv := Bool.toNat_le s.cfgv
  have htvalid := Bool.toNat_le s.TVALID
  have hhvalid := Bool.toNat_le s.HVALID
  have hsany := Bool.toNat_le s.SANY
  refine BitVec.eq_of_toNat_eq ?_
  rw [field_toNat, status_toNat]
  omega

/-! ### Faults are precise -/

/-- A command in an engine that has no fault latched either latches one or leaves none. -/
theorem CommandEffect.raised_or_noFault (h : CommandEffect s i t) (hready : s.ERR = .noFault) :
    t.ERR = .noFault ∨ ∃ f, t = s.latchFault f (encode i) := by
  cases h with
  | ignored _ hfaulted => exact absurd hready hfaulted
  | raised _ f => exact .inr ⟨f, rfl⟩
  | abort | srst => exact .inl rfl
  | _ => exact .inl hready

/-! ### What the invariant gives a rule to read -/

theorem StateInv.exists_key (hinv : StateInv s) : ∃ key, s.key? = some key :=
  Option.isSome_iff_exists.1 hinv.keyWritten

theorem StateInv.exists_wordSize (hinv : StateInv s) (hvalid : s.TVALID = true) : ∃ ws, wordSize? s.W = some ws :=
  cfgv_iff.1 (hinv.tableConfigured hvalid)

theorem StateInv.exists_table (hinv : StateInv s) (hvalid : s.TVALID = true) (ws : WordSize) :
    ∃ T, s.table? ws = some T := by
  obtain ⟨cells, hcells⟩ := Option.isSome_iff_exists.1 (hinv.tableWritten hvalid)
  exact ⟨_, table?_eq_some.2 ⟨cells, hcells, rfl⟩⟩

theorem StateInv.exists_waiting (hinv : StateInv s) : ∃ X, s.BUF.readList 0 s.BCNT.toNat = some X :=
  Option.isSome_iff_exists.1 hinv.bufWritten

theorem StateInv.exists_held (hinv : StateInv s) {ws : WordSize} (hws : wordSize? s.W = some ws) :
    ∃ H, s.HVALID = true → s.HOLD.readList 0 ws.blockBytes = some H := by
  by_cases hheld : s.HVALID = true
  · obtain ⟨H, hH⟩ := Option.isSome_iff_exists.1 (hinv.holdWritten hheld ws hws)
    exact ⟨H, fun _ => hH⟩
  · exact ⟨[], fun h => absurd h hheld⟩

/-- R21: `bb` from W, as the table of R190 has it. -/
theorem blockBytes_eq_div {ws : WordSize} (hws : wordSize? s.W = some ws) : s.W.toNat / 4 = ws.blockBytes := by
  rw [wordSize?_eq_some hws]
  cases ws <;> rfl

/-! ### The fault table, command by command -/

/-- What R190 asks of a command's answer where its table has the entry `f`: a next state with `f` in ERR, which differs
from `s` in ERR and ERRCMD alone if `f` is a fault. -/
def Answers (s : State) (i : Instr) (f : ErrCode) : Prop :=
  ∃ t, exec i s = .next t ∧ t.ERR = f ∧ (f ≠ .noFault → t = { s with ERR := f, ERRCMD := encode i })

theorem Answers.fault {f : ErrCode} (h : exec i s = .next { s with ERR := f, ERRCMD := encode i }) : Answers s i f :=
  ⟨_, h, rfl, fun _ => rfl⟩

theorem Answers.noFault (h : exec i s = .next t) (ht : t.ERR = .noFault) : Answers s i .noFault :=
  ⟨t, h, ht, fun hf => absurd rfl hf⟩

variable (hready : s.ERR = .noFault)
include hready

theorem setcfg_answers (w r : BitVec 8) : Answers s (.setcfg w r) (faultOf (.setcfg w r) s) := by
  simp only [faultOf]
  split
  case isTrue hstream => exact .fault (acceptIdle_of_stream hready hstream)
  case isFalse hidle =>
    have hexec := exec_setcfg_of_idle w r hready (not_not.1 hidle)
    split
    case isTrue hillegal => exact .fault (hexec.trans (if_pos (wordSize?_eq_none.2 hillegal)))
    case isFalse hlegal => exact .noFault (hexec.trans (if_neg (mt wordSize?_eq_none.1 hlegal))) hready

theorem keyclr_answers : Answers s .keyclr (faultOf .keyclr s) := by
  simp only [faultOf]
  split
  case isTrue hstream => exact .fault (acceptIdle_of_stream hready hstream)
  case isFalse hidle => exact .noFault (acceptIdle_of_idle hready (not_not.1 hidle)) hready

theorem keypush_answers (b : Byte) : Answers s (.keypush b) (faultOf (.keypush b) s) := by
  simp only [faultOf]
  split
  case isTrue hstream => exact .fault (acceptIdle_of_stream hready hstream)
  case isFalse hidle =>
    have hexec := exec_keypush_of_idle b hready (not_not.1 hidle)
    split
    case isTrue hfull => exact .fault (hexec.trans (if_pos hfull))
    case isFalse hroom => exact .noFault (hexec.trans (if_neg hroom)) hready

theorem sbegin_answers (dir : Direction) : Answers s (.sbegin dir) (faultOf (.sbegin dir) s) := by
  simp only [faultOf]
  split
  case isTrue hfault => exact .fault (exec_sbegin_sequenceError dir hready hfault)
  case isFalse hopens =>
    simp only [not_or, not_not, Bool.not_eq_false] at hopens
    obtain ⟨hidle, hvalid, hempty⟩ := hopens
    exact .noFault (exec_sbegin_of_closed dir hready hidle hvalid hempty) hready

theorem exec_send_of_idle (hidle : s.MODE = .idle) :
    exec .send s = raise .sequenceError (encode .send) s := by
  refine (accept_ready _ hready).trans ?_
  simp only [hidle]

variable (hinv : StateInv s)
include hinv

theorem expand_answers : Answers s .expand (faultOf .expand s) := by
  simp only [faultOf]
  by_cases hidle : s.MODE = .idle
  · cases hcfgv : s.cfgv with
    | false =>
      rw [if_pos (.inr rfl)]
      exact .fault (exec_expand_of_unconfigured hready hidle hcfgv)
    | true =>
      obtain ⟨ws, hws⟩ := cfgv_iff.1 hcfgv
      obtain ⟨key, hkey⟩ := hinv.exists_key
      rw [if_neg (by simp [hidle])]
      exact .noFault (exec_expand_of_key hready hidle hws hkey) hready
  · rw [if_pos (.inl hidle)]
    exact .fault (acceptIdle_of_stream hready hidle)

/-- In a stream DIN raises nothing: a byte is stored or completes a block, and what it then needs has been written. -/
theorem din_stream_answers (b : Byte) {ws : WordSize} (hws : wordSize? s.W = some ws) (hstream : s.MODE ≠ .idle) :
    Answers s (.din b) .noFault := by
  have hfit := hinv.streamBytesFit hstream ws hws
  have hpos := wordSize_blockBytes_pos ws
  obtain ⟨X, hX⟩ := hinv.exists_waiting
  obtain ⟨T, hT⟩ := hinv.exists_table (hinv.streamHasTable hstream) ws
  have hmode : s.MODE = .senc ∨ s.MODE = .sdec := by cases hm : s.MODE <;> simp_all
  rcases Nat.lt_or_eq_of_le (show s.BCNT.toNat + 1 ≤ ws.blockBytes by omega) with hroom | hfull
  · exact .noFault (exec_din_stores b hready hmode hws hroom) hready
  · rcases hmode with hsenc | hsdec
    · obtain ⟨a, a', k, hexec⟩ := exec_din_encrypts b hready hsenc hws hX hT hfull
      exact .noFault hexec hready
    · obtain ⟨H, hH⟩ := hinv.exists_held hws
      obtain ⟨a, a', k, hexec⟩ := exec_din_holds b hready hsdec hws hX hT hH hfull
      exact .noFault hexec hready

theorem din_answers (b : Byte) : Answers s (.din b) (faultOf (.din b) s) := by
  simp only [faultOf]
  split
  case isTrue hcfgv => exact .fault (exec_din_of_unconfigured b hready hcfgv)
  case isFalse hcfgv =>
    obtain ⟨ws, hws⟩ := cfgv_iff.1 (Bool.eq_true_of_not_eq_false hcfgv)
    rw [blockBytes_eq_div hws]
    by_cases hidle : s.MODE = .idle
    · have hexec := exec_din_of_idle b hready hidle hws
      split
      case isTrue hfull => exact .fault (hexec.trans (if_pos hfull.2))
      case isFalse hroom =>
        have hlt := Nat.lt_of_le_of_ne (hinv.bytesFit ws hws) fun hfull => hroom ⟨hidle, hfull⟩
        exact .noFault (hexec.trans (dinIdle_of_lt b hlt)) hready
    · rw [if_neg (fun h => hidle h.1)]
      exact din_stream_answers hready hinv b hws hidle

/-- ENCB and DECB have the same row of checks, and a transform that needs the block and the table alone. -/
theorem blockCommand_answers {transform : WordSize → Option (List Byte × State)}
    (hexec : exec i s = blockCommand (encode i) transform s)
    (htransform : ∀ {ws X T}, s.BUF.readList 0 ws.blockBytes = some X → s.table? ws = some T →
      ∃ out u, transform ws = some (out, u) ∧ u = { s with A := u.A, B := u.B, k := u.k }) :
    Answers s i (if s.MODE ≠ .idle ∨ s.TVALID = false then .sequenceError
      else if s.BCNT.toNat ≠ s.W.toNat / 4 then .inputShapeError else .noFault) := by
  split
  case isTrue hfault => exact .fault (hexec.trans (blockCommand_sequenceError hready hfault))
  case isFalse hpasses =>
    simp only [not_or, not_not, Bool.not_eq_false] at hpasses
    obtain ⟨hidle, hvalid⟩ := hpasses
    obtain ⟨ws, hws⟩ := hinv.exists_wordSize hvalid
    rw [blockBytes_eq_div hws]
    split
    case isTrue hcount =>
      exact .fault (hexec.trans (blockCommand_inputShapeError hready hidle hvalid hws hcount))
    case isFalse hcount =>
      obtain ⟨X, hX⟩ := hinv.exists_waiting
      obtain ⟨T, hT⟩ := hinv.exists_table hvalid ws
      rw [not_not.1 hcount] at hX
      obtain ⟨out, hout⟩ := htransform hX hT
      obtain ⟨t, hnext, ht⟩ := blockCommand_emits (cmd := encode i) hready hidle hvalid hws (not_not.1 hcount) hout
      exact .noFault (hexec.trans hnext) ((congrArg State.ERR ht).trans hready)

theorem encb_answers : Answers s .encb (faultOf .encb s) :=
  blockCommand_answers hready hinv rfl fun hX hT => ⟨_, encryptBuf?_some hX hT⟩

theorem decb_answers : Answers s .decb (faultOf .decb s) :=
  blockCommand_answers hready hinv rfl fun hX hT => ⟨_, decryptBuf?_some hX hT⟩

/-- R148: closing an encode stream raises nothing. -/
theorem send_senc_answers (hsenc : s.MODE = .senc) : Answers s .send .noFault := by
  have hvalid := hinv.streamHasTable (by simp [hsenc])
  obtain ⟨ws, hws⟩ := hinv.exists_wordSize hvalid
  by_cases howed : s.BCNT ≠ 0#5 ∨ s.SANY = false
  · obtain ⟨X, hX⟩ := hinv.exists_waiting
    obtain ⟨T, hT⟩ := hinv.exists_table hvalid ws
    obtain ⟨a, a', k, hexec⟩ := exec_send_pads hready hsenc hws howed hX hT (hinv.bytesFit ws hws)
    exact .noFault hexec hready
  · simp only [not_or, not_not, Bool.not_eq_false] at howed
    obtain ⟨hempty, hany⟩ := howed
    exact .noFault (exec_send_of_whole hready hsenc hempty hany) hready

/-- R149: closing a decode stream that has no bytes waiting raises nothing. -/
theorem send_sdec_answers (hsdec : s.MODE = .sdec) (hempty : s.BCNT = 0#5) : Answers s .send .noFault := by
  obtain ⟨ws, hws⟩ := hinv.exists_wordSize (hinv.streamHasTable (by simp [hsdec]))
  obtain ⟨H, hH⟩ := hinv.exists_held hws
  cases hheld : s.HVALID with
  | false => exact .noFault (exec_send_of_nothing hready hsdec hempty hheld) hready
  | true => exact .noFault (exec_send_strips hready hsdec hempty hheld hws (hH hheld)) hready

theorem send_answers : Answers s .send (faultOf .send s) := by
  simp only [faultOf]
  split
  case isTrue hidle => exact .fault (exec_send_of_idle hready hidle)
  case isFalse hstream =>
    split
    case isTrue hrest => exact .fault (exec_send_inputShapeError hready hrest.1 hrest.2)
    case isFalse hcloses =>
      cases hmode : s.MODE with
      | idle => exact absurd hmode hstream
      | senc => exact send_senc_answers hready hinv hmode
      | sdec => exact send_sdec_answers hready hinv hmode (by_contra fun hrest => hcloses ⟨hmode, hrest⟩)

/-- R190: every command answers with the table's entry. -/
theorem exec_answers (i : Instr) : Answers s i (faultOf i s) := by
  cases i with
  | nop => exact .noFault (exec_nop s) hready
  | setcfg w r => exact setcfg_answers hready w r
  | keyclr => exact keyclr_answers hready
  | keypush b => exact keypush_answers hready b
  | expand => exact expand_answers hready hinv
  | din b => exact din_answers hready hinv b
  | encb => exact encb_answers hready hinv
  | decb => exact decb_answers hready hinv
  | sbegin dir => exact sbegin_answers hready dir
  | send => exact send_answers hready hinv
  | abort => exact .noFault (exec_abort s) rfl
  | srst => exact .noFault (exec_srst s) rfl

end

end Sys2Proof.Machine

open Sys2Proof Sys2Proof.Machine

/-- Settles O30, command by command. -/
theorem faultsAreThoseOfTheTable : Obligations.FaultsAreThoseOfTheTable := fun _ hinv hready =>
  ⟨exec_answers hready hinv, fun _ _ => execute_illegal hready⟩

/-- Settles O31: of the effects of a command only the latching of a fault leaves ERR other than 0. -/
theorem faultsArePrecise : Obligations.FaultsArePrecise := by
  intro i s t hready hexec hfault
  obtain ⟨f, rfl⟩ := ((exec_effect hexec).raised_or_noFault hready).resolve_left hfault
  rfl

/-- Settles O8: the decoder refuses the word, whatever the state. -/
theorem illegalWordsRaiseIllegalCommand : Obligations.IllegalWordsRaiseIllegalCommand := by
  intro s cmd rest hpending hillFormed hready
  obtain ⟨e, hillegal⟩ := decode_eq_error_of_illFormed hillFormed
  exact (step_of_pending_cons hpending).trans (execute_illegal hready hillegal)

/-- Settles O9: ABORT and SRST pass by the acceptance that every other meaning begins with. -/
theorem executeIsTheCommonAcceptance : Obligations.ExecuteIsTheCommonAcceptance := by
  intro cmd s
  split
  case isTrue hsrst => exact execute_ok hsrst
  case isFalse hsrst =>
    split
    case isTrue hfaulted =>
      split
      case isTrue habort => exact execute_ok habort
      case isFalse habort => exact execute_of_faulted hfaulted habort hsrst
    case isFalse hready =>
      cases hdecode : decode cmd with
      | error e => exact execute_illegal (not_not.1 hready) hdecode
      | ok i => exact execute_ok hdecode

/-- Settles O10: the two words excluded are those of ABORT and SRST. -/
theorem faultedEngineIgnoresCommands : Obligations.FaultedEngineIgnoresCommands := by
  intro s cmd rest hpending hfaulted habort hsrst
  refine (step_of_pending_cons hpending).trans (execute_of_faulted hfaulted (fun h => habort ?_) fun h => hsrst ?_)
  · exact (decode_eq_ok_iff.1 h).symm
  · exact (decode_eq_ok_iff.1 h).symm

/-- Settles O28: STATUS[23:16] is the code of ERR, which is 0 for no fault alone. -/
theorem errLineFollowsErr : Obligations.ErrLineFollowsErr := by
  intro s
  have herrO : s.errO = true ↔ s.ERR ≠ .noFault := decide_eq_true_iff
  rw [csrRead_status, status_errField]
  exact ⟨herrO, herrO.trans errCode_code_eq_zero_iff.not.symm⟩

end

section
/-! ## Proofs of the statements about reset and hazards, 70_reset_and_hazards.md

What is frozen in a stream and what makes a table stale is read off the effects of the commands (`CommandEffect`). A
step answers a next state because each command does (`exec_answers`), and an engine that has a fault latched ignores all
but ABORT and SRST. -/

namespace Sys2Proof.Machine

open Sys2Proof

section
variable {s t : State} {i : Instr}

/-! ### Stale tables, R203 -/

/-- Of the three commands that make the table stale, a fault latched is the only other outcome. -/
theorem CommandEffect.tvalid_stale (e : CommandEffect s i t) (hready : s.ERR = .noFault)
    (hi : (∃ w r, i = .setcfg w r) ∨ i = .keyclr ∨ ∃ b, i = .keypush b) :
    (t.ERR = .noFault → t.TVALID = false) ∧ (t.ERR ≠ .noFault → t.TVALID = s.TVALID) := by
  cases e with
  | ignored _ hfaulted => exact absurd hready hfaulted
  | raised _ f _ _ hfault => exact ⟨fun h => absurd h hfault, fun _ => rfl⟩
  | setcfg | keyclr | keypush => exact ⟨fun _ => rfl, fun h => absurd hready h⟩
  | _ => simp at hi

theorem exec_sequenceError_of_stale (hready : s.ERR = .noFault) (hstale : s.TVALID = false)
    (hi : i = .encb ∨ i = .decb ∨ ∃ dir, i = .sbegin dir) :
    exec i s = .next { s with ERR := .sequenceError, ERRCMD := encode i } := by
  rcases hi with rfl | rfl | ⟨dir, rfl⟩
  · exact blockCommand_sequenceError hready (.inr hstale)
  · exact blockCommand_sequenceError hready (.inr hstale)
  · exact exec_sbegin_sequenceError dir hready (.inr (.inl hstale))

/-! ### Streams freeze the key and the table, R204 -/

/-- The commands that write what is frozen have an effect in IDLE mode only. -/
theorem CommandEffect.frozen_of_stream (e : CommandEffect s i t) (hstream : s.MODE ≠ .idle) (hsrst : i ≠ .srst) :
    t.W = s.W ∧ t.R = s.R ∧ t.K = s.K ∧ t.KLEN = s.KLEN ∧ t.L = s.L ∧ t.S = s.S ∧ t.TVALID = s.TVALID := by
  cases e with
  | srst => exact absurd rfl hsrst
  | setcfg _ _ _ hidle | keyclr _ hidle | keypush _ _ hidle | expand _ _ _ hidle => exact absurd hidle hstream
  | _ => exact ⟨rfl, rfl, rfl, rfl, rfl, rfl, rfl⟩

/-! ### Decode holds back one block, R206 -/

theorem decryptBlocks_length (ws : WordSize) (T : List (BitVec ws.bits)) (r : Nat) (ct : List Byte) (m : Nat) :
    (decryptBlocks ws T r ct m).length = m * ws.blockBytes := by
  simp [decryptBlocks]

/-- SBEGIN DEC and the DINs of any bytes. -/
theorem StateInv.runCommands_decode {ws : WordSize} {T : List (BitVec ws.bits)} (hinv : StateInv s)
    (hs : CipherReady s ws T) (hidle : s.MODE = .idle) (hvalid : s.TVALID = true) (hempty : s.BCNT = 0#5)
    (ct : List Byte) :
    ∃ C X t, Framed ws ct C X ∧ runCommands (.sbegin .dec :: ct.map .din) s = .next t ∧
      DecodeProgress s ws T C X t := by
  have hheld := hinv.hvalid_eq_false (by simp [hidle])
  have hopen := hinv.exec_sbegin .dec hidle hvalid hempty hs.ready
  obtain ⟨C, X, t, hct, hdata, ht⟩ := runCommands_map_din (ws := ws) (P := DecodeProgress s ws T)
    (.start hempty hheld) (fun b => DecodeProgress.store b hs) (fun b => DecodeProgress.complete b hs) ct
  exact ⟨C, X, t, hct, (runCommands_cons hopen).trans hdata, ht⟩

/-! ### Every word in every state has an effect, R211 -/

theorem StateInv.exec_next (hinv : StateInv s) (i : Instr) : ∃ t, exec i s = .next t := by
  by_cases hready : s.ERR = .noFault
  · obtain ⟨t, hexec, -⟩ := exec_answers hready hinv i
    exact ⟨t, hexec⟩
  · cases i with
    | abort => exact ⟨_, exec_abort s⟩
    | srst => exact ⟨_, exec_srst s⟩
    | _ => exact ⟨s, exec_of_faulted hready (by simp) (by simp)⟩

theorem StateInv.execute_next (hinv : StateInv s) (cmd : CmdWord) : ∃ t, execute cmd s = .next t := by
  cases hd : decode cmd with
  | ok i =>
    rw [execute_ok hd]
    exact hinv.exec_next i
  | error e =>
    by_cases hready : s.ERR = .noFault
    · exact ⟨_, execute_illegal hready hd⟩
    · exact ⟨s, execute_of_faulted hready (by simp [hd]) (by simp [hd])⟩

theorem StateInv.perform_next (hinv : StateInv s) (a : HostAction) : ∃ t, perform a s = .next t := by
  cases a with
  | command cmd => exact hinv.execute_next cmd
  | csrRead n => exact ⟨_, perform_csrRead n s⟩
  | assertReset => exact ⟨_, perform_assertReset s⟩

end

end Sys2Proof.Machine

open Sys2Proof Sys2Proof.Machine

/-- Settles O33: the seven commands check the mode first, and the effects of the others are outside what is frozen. -/
theorem streamsFreezeKeyAndTable : Obligations.StreamsFreezeKeyAndTable := by
  refine ⟨fun s i hready hstream hi => ?_, fun s t i hstream hsrst hexec =>
    (exec_effect hexec).frozen_of_stream hstream hsrst⟩
  rcases hi with ⟨w, r, rfl⟩ | rfl | ⟨b, rfl⟩ | rfl | rfl | rfl | ⟨dir, rfl⟩ <;>
    exact acceptIdle_of_stream hready hstream

/-- Settles O55, by the progress of the stream over `n` whole blocks, which leave nothing in BUF. -/
theorem decodeHoldsBackOneBlock : Obligations.DecodeHoldsBackOneBlock := by
  intro s ws T ct n hinv hidle hvalid hempty hready hws hT hn hlen
  obtain ⟨C, X, t, hct, hrun, ht⟩ := hinv.runCommands_decode ⟨hready, hws, hT⟩ hidle hvalid hempty ct
  obtain rfl : X = [] :=
    List.eq_nil_of_length_eq_zero (by rw [← hct.length_mod, hlen, Nat.mul_mod_left])
  obtain rfl : C.length = n := by
    rw [← hct.length_div, hlen, Nat.mul_div_cancel _ (wordSize_blockBytes_pos ws)]
  refine ⟨t, hrun, (congrArg State.ERR ht.frame).trans hready, ?_, congrArg State.BCNT ht.frame, ?_,
    decryptBlocks_length ..⟩
  · have hhvalid : t.HVALID = !C.isEmpty := congrArg State.HVALID ht.frame
    simpa [hhvalid] using List.ne_nil_of_length_pos hn
  · rw [hct.bytes, decryptBlocks_dropLast T _ hct.whole]
    exact congrArg State.OUT ht.frame

/-- Settles O60: the host waits, or its next action has an effect. -/
theorem stepAnswersANextState : Obligations.StepAnswersANextState := by
  intro s hinv
  cases hp : s.pending with
  | nil => exact ⟨s, step_of_pending_nil hp⟩
  | cons a rest =>
    rw [step_of_pending_cons hp]
    exact StateInv.perform_next (hinv.unobserved ..) a

/-- Settles O32: the checks that find the table stale, and the effects that make it so. -/
theorem staleTableIsNotUsed : Obligations.StaleTableIsNotUsed := by
  refine fun s i hready => ⟨exec_sequenceError_of_stale hready, fun hi => ?_⟩
  suffices hnext : ∃ t, exec i s = .next t from
    hnext.imp fun t hexec => ⟨hexec, (exec_effect hexec).tvalid_stale hready hi⟩
  rcases hi with ⟨w, r, rfl⟩ | rfl | ⟨b, rfl⟩
  · exact (setcfg_answers hready w r).imp fun _ => And.left
  · exact (keyclr_answers hready).imp fun _ => And.left
  · exact (keypush_answers hready b).imp fun _ => And.left

end
